-- ==== Sys2Proof/Word.lean ====
section
/-! DEFINITION. The plain data types of CatQR CORE: bytes, bits, code points, command words and channel sequences. -/

namespace Sys2Proof

/-- A FieldElement or any other byte: "an unsigned integer in [0,255], 8 bits wide" (00_scope.md R8). -/
abbrev Byte := BitVec 8

/-- One bit of a BitString or one cell of a Matrix (10_state.md R31). -/
abbrev Bit := BitVec 1

/-- One character of a text: "an unsigned 32-bit integer" (10_state.md R31, 44_bitstring_ops.md R140). -/
abbrev CodePoint := BitVec 32

/-- The command word `cmd[31:0]` (30_encoding.md R61). -/
abbrev Command := BitVec 32

/-- One element of a payload or result sequence, as wide as the widest of the three element types of
30_encoding.md R65; a byte or a bit stands in it zero-extended (`zext_N`, 00_scope.md R8). -/
abbrev Elem := BitVec 32

/-- A payload or result sequence of a request or response; its length is `len()` (30_encoding.md R60, R66). -/
abbrev Seq := List Elem

end Sys2Proof
end

