-- ==== Sys2Proof/Syntax.lean ====
section
/-! DEFINITION. Requests, the sixteen operations, and the opcode map of 30_encoding.md R63 as data. -/

namespace Sys2Proof

/-- A request: "a triple (cmd, A, B)" (30_encoding.md R60). -/
structure Request where
  /-- the command word -/
  cmd : Command
  /-- payload A -/
  a : Seq
  /-- payload B -/
  b : Seq
deriving DecidableEq, Repr

/-- The operations, one constructor for each row of 30_encoding.md R63. The fields are the operands of the command
word (R62), then the payloads the operation uses, at the element type the row gives them (R65). -/
inductive Instr where
  | init
  | expl (idx : BitVec 16)
  | logl (x : Byte)
  | gfadd (x y : Byte)
  | gfsub (x y : Byte)
  | gfmul (x y : Byte)
  | gfdiv (x y : Byte)
  | pmul (p q : List Byte)
  | pdivmod (dividend divisor : List Byte)
  | genpoly (nsym : Byte)
  | rsenc (nsym : Byte) (message : List Byte)
  | bsenc (text : List CodePoint)
  | bpack (bits : List Bit)
  | bunpack (bytes : List Byte)
  | mxasm (version : Byte) (bits : List Bit)
  | qrenc (version nsym : Byte) (text : List CodePoint)
deriving DecidableEq, Repr

/-- Element types of payloads (30_encoding.md R65). -/
inductive ElemKind where
  | byte
  | bit
  | codePoint
deriving DecidableEq, Repr

/-- Width of an element in bits (30_encoding.md R65). -/
def ElemKind.width : ElemKind → Nat
  | .byte => 8
  | .bit => 1
  | .codePoint => 32

/-- A row of the opcode map: `pattern` is the row's "match" (30_encoding.md R63). A payload kind `none` is the
table's "none". -/
structure OpRow where
  mnemonic : String
  pattern : Command
  mask : Command
  payloadA : Option ElemKind
  payloadB : Option ElemKind
deriving DecidableEq, Repr

/-- The opcode map of 30_encoding.md R63. -/
def opRows : List OpRow :=
  [ ⟨"INIT", 0x01000000#32, 0xFFFFFFFF#32, none, none⟩,
    ⟨"EXPL", 0x02000000#32, 0xFFFF0000#32, none, none⟩,
    ⟨"LOGL", 0x03000000#32, 0xFF00FFFF#32, none, none⟩,
    ⟨"GFADD", 0x10000000#32, 0xFF0000FF#32, none, none⟩,
    ⟨"GFSUB", 0x11000000#32, 0xFF0000FF#32, none, none⟩,
    ⟨"GFMUL", 0x12000000#32, 0xFF0000FF#32, none, none⟩,
    ⟨"GFDIV", 0x13000000#32, 0xFF0000FF#32, none, none⟩,
    ⟨"PMUL", 0x20000000#32, 0xFFFFFFFF#32, some .byte, some .byte⟩,
    ⟨"PDIVMOD", 0x21000000#32, 0xFFFFFFFF#32, some .byte, some .byte⟩,
    ⟨"GENPOLY", 0x30000000#32, 0xFF00FFFF#32, none, none⟩,
    ⟨"RSENC", 0x31000000#32, 0xFF00FFFF#32, some .byte, none⟩,
    ⟨"BSENC", 0x40000000#32, 0xFFFFFFFF#32, some .codePoint, none⟩,
    ⟨"BPACK", 0x41000000#32, 0xFFFFFFFF#32, some .bit, none⟩,
    ⟨"BUNPACK", 0x42000000#32, 0xFFFFFFFF#32, some .byte, none⟩,
    ⟨"MXASM", 0x50000000#32, 0xFF00FFFF#32, some .bit, none⟩,
    ⟨"QRENC", 0x60000000#32, 0xFF0000FF#32, some .codePoint, none⟩ ]

/-- "a command word w selects the row exactly when (w and mask) == match" (30_encoding.md R63). -/
def OpRow.selects (row : OpRow) (w : Command) : Bool := w &&& row.mask == row.pattern

end Sys2Proof
end

