-- ==== Sys2Proof/WellFormed.lean ====
section
/-! DEFINITION. Which requests a host can legally send: the command word selects a row (30_encoding.md R64 (a), (b)),
a payload the row does not use is empty (R64 (c)), and every element of a used payload is of the row's element type
(R65: "A payload of the wrong element type cannot be expressed"). The operations of `Instr` need no check of their
own: their fields have the widths of 30_encoding.md R62 and R65, so an ill-formed operation cannot be built. -/

namespace Sys2Proof

/-- The element is one of the element type: it fits the type's width. -/
def ElemKind.holds (k : ElemKind) (e : Elem) : Bool := decide (e.toNat < 2 ^ k.width)

/-- A used payload holds elements of its type only; an unused one is empty. -/
def payloadWellFormed (kind : Option ElemKind) (payload : Seq) : Bool :=
  match kind with
  | none => payload.isEmpty
  | some k => payload.all k.holds

/-- The request is one that the row serves. -/
def OpRow.admits (row : OpRow) (r : Request) : Bool :=
  row.selects r.cmd && payloadWellFormed row.payloadA r.a && payloadWellFormed row.payloadB r.b

/-- The request is legal and expressible: some row admits it. -/
def Request.wellFormed (r : Request) : Bool := opRows.any fun row => row.admits r

/-- The payloads the row does not use are empty, the negation of 30_encoding.md R64 (c); the element types play no part. -/
def OpRow.unusedEmpty (row : OpRow) (r : Request) : Bool :=
  (row.payloadA.isSome || r.a.isEmpty) && (row.payloadB.isSome || r.b.isEmpty)

/-- The request is legal in the sense of 30_encoding.md R64: some row is selected by the command word and finds its
unused payloads empty. -/
def Request.legal (r : Request) : Bool := opRows.any fun row => row.selects r.cmd && row.unusedEmpty r

end Sys2Proof
end

