-- ==== Sys2Proof/Decode.lean ====
section
/-! DEFINITION. The decoder (30_encoding.md R61 to R65, R68 steps 1 to 3), total on every request, and the encoder. -/

namespace Sys2Proof

/-- Why a request is illegal (30_encoding.md R64). The response does not tell them apart. -/
inductive Illegal where
  /-- R64 (a): `cmd[31:24]` is not one of the sixteen opcodes. -/
  | unassignedOpcode
  /-- R64 (b): a field marked "zero (must be 0)" is not zero. -/
  | nonzeroReserved
  /-- R64 (c): a payload the opcode does not use is not empty. -/
  | unusedPayload
deriving DecidableEq, Repr

/-- `cmd[31:24]`, the opcode in every format (30_encoding.md R61). -/
def opcodeField (w : Command) : Byte := w.extractLsb' 24 8

/-- `cmd[23:16]`, operand `a` of formats X and XY (30_encoding.md R62). -/
def fieldA (w : Command) : Byte := w.extractLsb' 16 8

/-- `cmd[15:8]`, operand `b` of format XY (30_encoding.md R62). -/
def fieldB (w : Command) : Byte := w.extractLsb' 8 8

/-- `cmd[15:0]`, operand `idx` of format I (30_encoding.md R62). -/
def fieldIdx (w : Command) : BitVec 16 := w.extractLsb' 0 16

/-- Format Z: bits 23:0 must be 0 (30_encoding.md R61). -/
def zeroZ (w : Command) : Bool := w.extractLsb' 0 24 == 0#24

/-- Format I: bits 23:16 must be 0 (30_encoding.md R61). -/
def zeroI (w : Command) : Bool := w.extractLsb' 16 8 == 0#8

/-- Format X: bits 15:0 must be 0 (30_encoding.md R61). -/
def zeroX (w : Command) : Bool := w.extractLsb' 0 16 == 0#16

/-- Format XY: bits 7:0 must be 0 (30_encoding.md R61). -/
def zeroXY (w : Command) : Bool := w.extractLsb' 0 8 == 0#8

/-- A payload read at element type byte: "the opcode decides how the elements are read" (30_encoding.md R65). An
element of a narrower type is the low end of the channel's element (DESIGN CHOICE, log 6). -/
def readBytes (p : Seq) : List Byte := p.map (·.setWidth 8)

/-- A payload read at element type bit (30_encoding.md R65; log 6). -/
def readBits (p : Seq) : List Bit := p.map (·.setWidth 1)

/-- Steps (2) and (3) of 30_encoding.md R68 for a row already found: must-be-zero bits, then unused payloads. -/
def checkRow (reservedZero unusedEmpty : Bool) (i : Instr) : Except Illegal Instr :=
  if !reservedZero then .error .nonzeroReserved
  else if !unusedEmpty then .error .unusedPayload
  else .ok i

/-- The decoding procedure of 30_encoding.md R68, steps (1) to (3), over the opcode map of R63. -/
def decode (r : Request) : Except Illegal Instr :=
  let w := r.cmd
  let noA := r.a.isEmpty
  let noB := r.b.isEmpty
  match opcodeField w with
  | 0x01#8 => checkRow (zeroZ w) (noA && noB) .init
  | 0x02#8 => checkRow (zeroI w) (noA && noB) (.expl (fieldIdx w))
  | 0x03#8 => checkRow (zeroX w) (noA && noB) (.logl (fieldA w))
  | 0x10#8 => checkRow (zeroXY w) (noA && noB) (.gfadd (fieldA w) (fieldB w))
  | 0x11#8 => checkRow (zeroXY w) (noA && noB) (.gfsub (fieldA w) (fieldB w))
  | 0x12#8 => checkRow (zeroXY w) (noA && noB) (.gfmul (fieldA w) (fieldB w))
  | 0x13#8 => checkRow (zeroXY w) (noA && noB) (.gfdiv (fieldA w) (fieldB w))
  | 0x20#8 => checkRow (zeroZ w) true (.pmul (readBytes r.a) (readBytes r.b))
  | 0x21#8 => checkRow (zeroZ w) true (.pdivmod (readBytes r.a) (readBytes r.b))
  | 0x30#8 => checkRow (zeroX w) (noA && noB) (.genpoly (fieldA w))
  | 0x31#8 => checkRow (zeroX w) noB (.rsenc (fieldA w) (readBytes r.a))
  | 0x40#8 => checkRow (zeroZ w) noB (.bsenc r.a)
  | 0x41#8 => checkRow (zeroZ w) noB (.bpack (readBits r.a))
  | 0x42#8 => checkRow (zeroZ w) noB (.bunpack (readBytes r.a))
  | 0x50#8 => checkRow (zeroX w) noB (.mxasm (fieldA w) (readBits r.a))
  | 0x60#8 => checkRow (zeroXY w) noB (.qrenc (fieldA w) (fieldB w) r.a)
  | _ => .error .unassignedOpcode

/-- A command word from its opcode and the bytes at bits 23:16 and 15:8; bits 7:0 are 0 (30_encoding.md R61). -/
def commandOf (opcode a b : Byte) : Command :=
  (opcode.setWidth 32 <<< 24) ||| (a.setWidth 32 <<< 16) ||| (b.setWidth 32 <<< 8)

/-- Bytes as channel elements, zero-extended (`zext_N` of 00_scope.md R8). -/
def byteSeq (l : List Byte) : Seq := l.map (·.setWidth 32)

/-- Bits as channel elements, zero-extended. -/
def bitSeq (l : List Bit) : Seq := l.map (·.setWidth 32)

/-- The request that asks for an operation: its word from the formats of 30_encoding.md R61 and the opcodes of R63,
its payloads as R63 assigns them. -/
def encode : Instr → Request
  | .init => ⟨commandOf 0x01#8 0#8 0#8, [], []⟩
  | .expl idx => ⟨0x02000000#32 ||| idx.setWidth 32, [], []⟩
  | .logl x => ⟨commandOf 0x03#8 x 0#8, [], []⟩
  | .gfadd x y => ⟨commandOf 0x10#8 x y, [], []⟩
  | .gfsub x y => ⟨commandOf 0x11#8 x y, [], []⟩
  | .gfmul x y => ⟨commandOf 0x12#8 x y, [], []⟩
  | .gfdiv x y => ⟨commandOf 0x13#8 x y, [], []⟩
  | .pmul p q => ⟨commandOf 0x20#8 0#8 0#8, byteSeq p, byteSeq q⟩
  | .pdivmod dividend divisor => ⟨commandOf 0x21#8 0#8 0#8, byteSeq dividend, byteSeq divisor⟩
  | .genpoly nsym => ⟨commandOf 0x30#8 nsym 0#8, [], []⟩
  | .rsenc nsym message => ⟨commandOf 0x31#8 nsym 0#8, byteSeq message, []⟩
  | .bsenc text => ⟨commandOf 0x40#8 0#8 0#8, text, []⟩
  | .bpack bits => ⟨commandOf 0x41#8 0#8 0#8, bitSeq bits, []⟩
  | .bunpack bytes => ⟨commandOf 0x42#8 0#8 0#8, byteSeq bytes, []⟩
  | .mxasm version bits => ⟨commandOf 0x50#8 version 0#8, bitSeq bits, []⟩
  | .qrenc version nsym text => ⟨commandOf 0x60#8 version nsym, text, []⟩

/-- The request whose command word has the bits `w` of a row of the opcode table, `nbits` of them, the bits above
them 0, and whose payloads are empty. -/
def requestOfTableWord (nbits w : Nat) : Request := ⟨BitVec.ofNat 32 (w % 2 ^ nbits), [], []⟩

/-- The operation the decoder reads from a table word (30_encoding.md R61: one length, 32 bits); `none` where it refuses. -/
def decodeTableWord (nbits w : Nat) : Option Instr :=
  match decode (requestOfTableWord nbits w) with
  | .ok i => some i
  | .error _ => none

end Sys2Proof
end

