-- ==== Sys2Proof/Config.lean ====
section
/-! DEFINITION. What an implementation of CatQR CORE fixes (00_scope.md R7), and the free values: constants without a
body, so that nothing in Lean can evaluate them or prove a value of them. -/

namespace Sys2Proof

/-- PACK_TAIL: "how the byte packer completes a last group of fewer than 8 bits" (00_scope.md R7, 44_bitstring_ops.md R141). -/
inductive PackTail where
  /-- ZERO_PAD_RIGHT, the default: the last group is completed with 0 bits at the low end. -/
  | zeroPadRight
  /-- RIGHT_ALIGN: the last group is taken as a number. -/
  | rightAlign
deriving DecidableEq, Repr

/-- The instance parameters of 00_scope.md R7, "constants of an instance, fixed before reset and not changeable by
any request" (10_state.md R28). The machine takes them as an argument through `State.params`; no step writes them
(log 2). -/
structure Params where
  /-- ALIGN_R0: row of the top-left cell of the alignment bitmap (45_matrix_ops.md R154). -/
  alignR0 : Nat
  /-- ALIGN_C0: column of the top-left cell of the alignment bitmap (45_matrix_ops.md R154). -/
  alignC0 : Nat
  /-- PACK_TAIL. -/
  packTail : PackTail
  /-- SEQ_MAX: greatest length of any payload or result sequence; `none` is "unbounded" (30_encoding.md R65). -/
  seqMax : Option Nat
deriving DecidableEq, Repr

/-- Free value: ALIGN_R0 of the instance that is reset. "No default is given" (92_eei_decisions.md D25); DESIGN CHOICE, log 2. -/
opaque Config.alignR0 : Nat

/-- Free value: ALIGN_C0 of the instance that is reset. "No default is given" (92_eei_decisions.md D25); DESIGN CHOICE, log 2. -/
opaque Config.alignC0 : Nat

/-- Free value: what entry `i` of EXP holds before INIT, "unspecified" (10_state.md R32); DESIGN CHOICE, log 3. -/
opaque Config.expAtReset : Nat → Byte

/-- Free value: what entry `x` of LOG (1 to 255) holds before INIT, "unspecified" (10_state.md R32); DESIGN CHOICE, log 3. -/
opaque Config.logAtReset : Nat → Byte

/-- The parameters of the instance that is reset: the spec's defaults where it has them (00_scope.md R7), free values
for the alignment position; DESIGN CHOICE, log 2. -/
def Config.params : Params where
  alignR0 := Config.alignR0
  alignC0 := Config.alignC0
  packTail := .zeroPadRight
  seqMax := none

end Sys2Proof
end

