-- ==== Sys2Proof/Machine/State.lean ====
section
/-! DEFINITION. The state of CatQR CORE (10_state.md R20), the response (30_encoding.md R66), and the state after
reset (10_state.md R32, 70_reset_and_hazards.md R200). -/

namespace Sys2Proof.Machine

/-- The status of a response, by the names of 30_encoding.md R67; "All other status values are never produced". -/
inductive Status where
  /-- 0x00 -/
  | ok
  /-- 0x01: "field division attempted with a zero divisor" (60_exceptions.md R180) -/
  | divisionByZero
  /-- 0x02 (60_exceptions.md R180) -/
  | lengthExceeded
  /-- 0x03 (60_exceptions.md R180) -/
  | unsupportedCharacter
  /-- 0x80: 30_encoding.md R64 -/
  | illegalCommand
  /-- 0x81: READY is 0 (60_exceptions.md R181) -/
  | tablesNotReady
  /-- 0x82: EXPL with idx of 510 or more -/
  | indexOutOfRange
  /-- 0x83: LOGL of 0 -/
  | logOfZero
  /-- 0x84: an empty operand of PMUL, an empty divisor of PDIVMOD -/
  | emptyPolynomial
  /-- 0x85: PDIVMOD's divisor does not begin with 1 -/
  | nonMonicDivisor
  /-- 0x86: PDIVMOD's dividend is shorter than the remainder -/
  | dividendTooShort
  /-- 0x87: version 0 -/
  | badVersion
  /-- 0x88: 45_matrix_ops.md R154 -/
  | badAlignmentConfig
  /-- 0x89: a payload or result longer than SEQ_MAX -/
  | capacityExceeded
deriving DecidableEq, Repr

/-- A response: "a triple (status, R0, R1)" (30_encoding.md R66). -/
structure Response where
  status : Status
  r0 : Seq
  r1 : Seq
deriving DecidableEq, Repr

/-- The two tables. EXP has the indices 0 to 509 (10_state.md R21). LOG has the indices 1 to 255 and NO entry 0
(10_state.md R22, 93_implementation_defined.md U1: "a table indexed from 1"): `log` holds LOG[x] at position x - 1
(log 5). -/
structure Tables where
  exp : Vector Byte 510
  log : Vector Byte 255
deriving DecidableEq, Repr

/-- The machine's state. The persistent state is "exactly three items" (10_state.md R20): EXP and LOG in `tables`, and
READY in `ready`. The other fields are the model's own: `params` are the instance parameters, which no step writes
(log 2); `requests` and `responses` are the two channels of the transaction interface (30_encoding.md R60, R66; log 1). -/
structure State where
  /-- EXP and LOG (10_state.md R21, R22) -/
  tables : Tables
  /-- READY (10_state.md R23) -/
  ready : Bool
  /-- ALIGN_R0, ALIGN_C0, PACK_TAIL, SEQ_MAX (00_scope.md R7) -/
  params : Params
  /-- requests sent and not yet begun, oldest first (20_memory.md R48, 70_reset_and_hazards.md R202 (b)) -/
  requests : List Request
  /-- responses produced and not yet taken by the host, oldest first -/
  responses : List Response
deriving DecidableEq, Repr

/-- Nothing stops the machine with a fault, so there is no constructor, which is safe: "every operation terminates"
with a response (93_implementation_defined.md, 70_reset_and_hazards.md R204), and the source's error kinds are
statuses of a response (60_exceptions.md R180, R184). -/
inductive Fault where
deriving DecidableEq, Repr

/-- Why a step gives no meaning. -/
inductive Refusal where
  /-- Raised by the arm in exec of an instruction the model has not reached; safe. No arm raises it. -/
  | notModelled (mnemonic : String)
deriving DecidableEq, Repr

/-- The tables at reset: "every entry of EXP and every entry of LOG is unspecified. A model must not give the tables
any value before INIT" (10_state.md R32), so every entry is a free value (DESIGN CHOICE, log 3). -/
def Tables.atReset : Tables where
  exp := ⟨⟨(List.range 510).map Config.expAtReset⟩, by simp⟩
  log := ⟨⟨(List.range 255).map fun k => Config.logAtReset (k + 1)⟩, by simp⟩

/-- "READY = 0; EXP and LOG unspecified; no operation in progress; no response pending" (70_reset_and_hazards.md R200). -/
def State.reset : State where
  tables := Tables.atReset
  ready := false
  params := Config.params
  requests := []
  responses := []

end Sys2Proof.Machine
end

