-- ==== Sys2Proof/Machine/Flags.lean ====
section
/-! DEFINITION. "Flags and condition codes: the block has none" (10_state.md R27). What a processor's flags tell, the
status byte of the response tells, and it is not state; this file holds its code (30_encoding.md R67). -/

namespace Sys2Proof.Machine

/-- The status byte (30_encoding.md R67). -/
def Status.code : Status → Byte
  | .ok => 0x00#8
  | .divisionByZero => 0x01#8
  | .lengthExceeded => 0x02#8
  | .unsupportedCharacter => 0x03#8
  | .illegalCommand => 0x80#8
  | .tablesNotReady => 0x81#8
  | .indexOutOfRange => 0x82#8
  | .logOfZero => 0x83#8
  | .emptyPolynomial => 0x84#8
  | .nonMonicDivisor => 0x85#8
  | .dividendTooShort => 0x86#8
  | .badVersion => 0x87#8
  | .badAlignmentConfig => 0x88#8
  | .capacityExceeded => 0x89#8

end Sys2Proof.Machine
end

