-- ==== Sys2Proof/Machine/Ops.lean ====
section
/-! DEFINITION. The named operations over the state: reading the tables, taking a request, answering it, and the
checks that operations share, in the order of 30_encoding.md R68. -/

namespace Sys2Proof.Machine

/-- What an operation computes: `raise E` is an error, `return (R0, R1)` a pair of results (00_scope.md R8). -/
abbrev Answer := Except Status (Seq × Seq)

/-- What an operation or a step answers. -/
abbrev Result := Host.Outcome State Fault Refusal

/-- Read EXP[i]; the index space is 0 to 509 (20_memory.md R45 (a)). -/
def Tables.expAt (t : Tables) (i : Nat) (h : i < 510) : Byte := t.exp[i]

/-- Read LOG[x] for a nonzero x: entry 0 has no value and is never read (20_memory.md R45 (b)). -/
def Tables.logAt (t : Tables) (x : Byte) (_ : x ≠ 0#8) : Byte := t.log[x.toNat - 1]

/-- Take the oldest request: requests are served one at a time in the order received (20_memory.md R48). `none` when
no request waits. -/
def State.fetch (s : State) : Option (Request × State) :=
  match s.requests with
  | [] => none
  | r :: rest => some (r, { s with requests := rest })

/-- Produce a response (30_encoding.md R66). -/
def State.respond (s : State) (r : Response) : State := { s with responses := s.responses ++ [r] }

/-- The response an answer becomes: status OK with the results of the rule, or the failure's status with empty results
(30_encoding.md R66). -/
def Answer.response (ans : Answer) : Response :=
  match ans with
  | .ok (r0, r1) => ⟨.ok, r0, r1⟩
  | .error e => ⟨e, [], []⟩

/-- Answer a request with what its operation computed (30_encoding.md R66, 60_exceptions.md R184): a next state,
whatever was computed. -/
def State.reply (s : State) (ans : Answer) : Result := .next (s.respond (Answer.response ans))

/-- Delivery of a failure, the block's whole counterpart of taking an exception (60_exceptions.md R184): the response
carries the status and empty R0 and R1, EXP, LOG and READY are as they were, nothing is saved anywhere. There is nothing
to return from (60_exceptions.md R185): the next request is served as if the failed one had never been sent. -/
def State.raise (s : State) (e : Status) : State := s.respond (Answer.response (.error e))

/-- Answer a request the decoder finds illegal, whichever of 30_encoding.md R64 (a), (b), (c) it is. -/
def State.rejectIllegal (s : State) (_ : Illegal) : State := s.raise .illegalCommand

/-- A sequence of `n` elements does not exceed SEQ_MAX (30_encoding.md R65). -/
def Params.fits (p : Params) (n : Nat) : Bool :=
  match p.seqMax with
  | none => true
  | some m => decide (n ≤ m)

/-- Step (4) of 30_encoding.md R68 for one payload of `n` elements. -/
def capPayload (p : Params) (n : Nat) (ans : Answer) : Answer :=
  if Params.fits p n then ans else .error .capacityExceeded

/-- Step (5) of 30_encoding.md R68: an operation that reads the tables needs `READY == 1`. -/
def needTables (ready : Bool) (ans : Answer) : Answer :=
  if ready then ans else .error .tablesNotReady

/-- Step (7) of 30_encoding.md R68, the last of 60_exceptions.md R183: no result sequence exceeds SEQ_MAX. Every operation
with a result makes this check, a result of one byte being a sequence of length 1 (30_encoding.md R66; log 7). -/
def capResult (p : Params) (ans : Answer) : Answer :=
  match ans with
  | .ok (r0, r1) =>
    if Params.fits p r0.length && Params.fits p r1.length then .ok (r0, r1) else .error .capacityExceeded
  | .error e => .error e

end Sys2Proof.Machine
end

