-- ==== Sys2Proof/Machine/Operands.lean ====
section
/-! DEFINITION. Operand and result forms: bytes as bits, bits as numbers, and result sequences. The reading of a
request's fields and payloads stands in Sys2Proof/Decode.lean. -/

namespace Sys2Proof.Machine

/-- `bits8(v)[k] = (v >> (7-k)) and 1`, most significant bit first (00_scope.md R8, 20_memory.md R40). -/
def bits8 (v : Byte) : List Bit := (List.range 8).map fun k => (v >>> (7 - k)).setWidth 1

/-- The value of a group of bits, "the first bit of the group is the most significant" (44_bitstring_ops.md R141). -/
def bitsValue (group : List Bit) : Nat := group.foldl (fun v b => 2 * v + b.toNat) 0

/-- `zeros(n)` (00_scope.md R8). -/
def zeros (n : Nat) : List Byte := List.replicate n 0#8

/-- Xor the bytes of `a` entrywise onto the front of `w`; what of `w` lies beyond `a` is kept. -/
def xorFront : List Byte → List Byte → List Byte
  | a :: as, b :: bs => (a ^^^ b) :: xorFront as bs
  | [], w => w
  | _ :: _, [] => []

/-- A result R0 of one byte. -/
def oneByte (v : Byte) : Seq × Seq := (byteSeq [v], [])

/-- A result R0 of a sequence of bytes. -/
def bytesResult (l : List Byte) : Seq × Seq := (byteSeq l, [])

/-- A result R0 of a sequence of bits. -/
def bitsResult (l : List Bit) : Seq × Seq := (bitSeq l, [])

end Sys2Proof.Machine
end

