-- ==== Sys2Proof/Machine/BitString.lean ====
section
/-! DEFINITION. BSENC, BPACK, BUNPACK (44_bitstring_ops.md). None of them reads the tables. -/

namespace Sys2Proof.Machine

/-- The mode indicator `0100` (44_bitstring_ops.md R140). -/
def modeIndicator : List Bit := [0#1, 1#1, 0#1, 0#1]

/-- `DataEncode(text)` (44_bitstring_ops.md R140): the length test, then the characters, then mode, 8-bit count and
8 bits for each character. -/
def dataEncode (text : List CodePoint) : Except Status (List Bit) :=
  if text.length > 255 then .error .lengthExceeded
  else if text.any (fun c => decide (c.toNat > 255)) then .error .unsupportedCharacter
  else .ok (modeIndicator ++ bits8 (BitVec.ofNat 8 text.length) ++ text.flatMap fun c => bits8 (c.setWidth 8))

/-- One group of `BytePack` as a byte (44_bitstring_ops.md R141): a group of u < 8 bits is completed as PACK_TAIL says. -/
def packGroup (tail : PackTail) (group : List Bit) : Byte :=
  match tail with
  | .zeroPadRight => BitVec.ofNat 8 (bitsValue group * 2 ^ (8 - group.length))
  | .rightAlign => BitVec.ofNat 8 (bitsValue group)

/-- `BytePack(bits)` (44_bitstring_ops.md R141): group k is `bits[8k .. min(8k+7, t-1)]`. -/
def bytePack (tail : PackTail) (bits : List Bit) : List Byte :=
  (List.range ((bits.length + 7) / 8)).map fun k => packGroup tail ((bits.drop (8 * k)).take 8)

/-- `BitUnpack(bytes)` (44_bitstring_ops.md R142). -/
def bitUnpack (bytes : List Byte) : List Bit := bytes.flatMap bits8

/-- BSENC ; text (44_bitstring_ops.md R140). -/
def execBsenc (text : List CodePoint) (s : State) : Result :=
  s.reply (capPayload s.params text.length (capResult s.params ((dataEncode text).map bitsResult)))

/-- BPACK ; bits (44_bitstring_ops.md R141). -/
def execBpack (bits : List Bit) (s : State) : Result :=
  s.reply (capPayload s.params bits.length
    (capResult s.params (.ok (bytesResult (bytePack s.params.packTail bits)))))

/-- BUNPACK ; bytes (44_bitstring_ops.md R142). -/
def execBunpack (bytes : List Byte) (s : State) : Result :=
  s.reply (capPayload s.params bytes.length (capResult s.params (.ok (bitsResult (bitUnpack bytes)))))

end Sys2Proof.Machine
end

