-- ==== Sys2Proof/Machine/Matrix.lean ====
section
/-! DEFINITION. MXASM (45_matrix_ops.md): fixed pattern overlay and data-bit placer. A cell is (row, column), row 0 at
the top, column 0 at the left (20_memory.md R44). -/

namespace Sys2Proof.Machine

/-- A bitmap, row 0 first, column 0 first in each row. -/
abbrev Bitmap := List (List Bit)

/-- FINDER (45_matrix_ops.md R151). -/
def finder : Bitmap :=
  [ [1, 1, 1, 1, 1, 1, 1],
    [1, 0, 0, 0, 0, 0, 1],
    [1, 0, 1, 1, 1, 0, 1],
    [1, 0, 1, 1, 1, 0, 1],
    [1, 0, 1, 1, 1, 0, 1],
    [1, 0, 0, 0, 0, 0, 1],
    [1, 1, 1, 1, 1, 1, 1] ]

/-- ALIGN (45_matrix_ops.md R152). -/
def alignment : Bitmap :=
  [ [1, 1, 1, 1, 1],
    [1, 0, 0, 0, 1],
    [1, 0, 1, 0, 1],
    [1, 0, 0, 0, 1],
    [1, 1, 1, 1, 1] ]

/-- `size = 4*version + 17` (45_matrix_ops.md R150). -/
def matrixSize (version : Nat) : Nat := 4 * version + 17

/-- What a bitmap of `h` by `h` cells placed at (r0, c0) sets cell (r, c) to; `none` outside its footprint, which is
every cell the bitmap covers, "whether the bitmap holds 0 or 1 there" (45_matrix_ops.md R153). -/
def placedAt (bitmap : Bitmap) (h r0 c0 r c : Nat) : Option Bit :=
  if r0 ≤ r ∧ r < r0 + h ∧ c0 ≤ c ∧ c < c0 + h then some ((bitmap.getD (r - r0) []).getD (c - c0) 0#1) else none

/-- The pattern bit of a fixed cell, `none` for a free cell (45_matrix_ops.md R153): the alignment bitmap when
version > 1, the three finders. `Place` of R156 in its order lets the last bitmap placed win, so it is asked first (log 11). -/
def patternAt (p : Params) (version r c : Nat) : Option Bit :=
  let size := matrixSize version
  (if version > 1 then placedAt alignment 5 p.alignR0 p.alignC0 r c else none)
    <|> placedAt finder 7 (size - 7) 0 r c
    <|> placedAt finder 7 0 (size - 7) r c
    <|> placedAt finder 7 0 0 r c

/-- The cells of a grid in row-major scan order (20_memory.md R44). -/
def rowMajor (size : Nat) : List (Nat × Nat) :=
  (List.range size).flatMap fun r => (List.range size).map fun c => (r, c)

/-- The scan of 45_matrix_ops.md R155: a fixed cell takes its pattern bit; a free cell consumes the next bit, and stays
0 once the bits are exhausted; surplus bits are discarded. -/
def placeBits (pattern : Nat → Nat → Option Bit) : List (Nat × Nat) → List Bit → List Bit
  | [], _ => []
  | (r, c) :: cells, bits =>
    match pattern r c, bits with
    | some v, bits => v :: placeBits pattern cells bits
    | none, [] => 0#1 :: placeBits pattern cells []
    | none, b :: bits => b :: placeBits pattern cells bits

/-- `CreateMatrix(version, bits)`, serialised row-major (45_matrix_ops.md R156). -/
def createMatrix (p : Params) (version : Nat) (bits : List Bit) : List Bit :=
  placeBits (patternAt p version) (rowMajor (matrixSize version)) bits

/-- Conditions (a) to (d) of 45_matrix_ops.md R154 on the alignment position, for the version's size. -/
def alignmentFits (p : Params) (version : Nat) : Bool :=
  let size := matrixSize version
  decide (p.alignR0 + 5 ≤ size ∧ p.alignC0 + 5 ≤ size)
    && !decide (p.alignR0 ≤ 6 ∧ p.alignC0 ≤ 6)
    && !decide (p.alignR0 ≤ 6 ∧ p.alignC0 + 4 ≥ size - 7)
    && !decide (p.alignR0 + 4 ≥ size - 7 ∧ p.alignC0 ≤ 6)

/-- The checks of MXASM and QRENC on the version, in their order (45_matrix_ops.md R156, 46_pipeline.md R170). For
version 1 the alignment parameters are not checked (45_matrix_ops.md R154). -/
def checkVersion (p : Params) (version : Byte) (ans : Answer) : Answer :=
  if version.toNat = 0 then .error .badVersion
  else if version.toNat > 1 ∧ alignmentFits p version.toNat = false then .error .badAlignmentConfig
  else ans

/-- MXASM version ; bits (45_matrix_ops.md R156). -/
def execMxasm (version : Byte) (bits : List Bit) (s : State) : Result :=
  s.reply (capPayload s.params bits.length (capResult s.params
    (checkVersion s.params version (.ok (bitsResult (createMatrix s.params version.toNat bits))))))

end Sys2Proof.Machine
end

