-- ==== Sys2Proof/Machine/TableOps.lean ====
section
/-! DEFINITION. INIT, EXPL, LOGL (40_table_ops.md). -/

namespace Sys2Proof.Machine

/-- `Step(x)` of 40_table_ops.md R100: shift left by one in 9 bits, and xor with 0x11D when bit 8 is set. -/
def gfStep (x : Byte) : Byte :=
  let t : BitVec 9 := x.setWidth 9 <<< 1
  (if t &&& 0x100#9 != 0#9 then t ^^^ 0x11D#9 else t).setWidth 8

/-- `n` terms of the generator sequence that starts at `x` (40_table_ops.md R100). -/
def generatorSeq : Nat → Byte → List Byte
  | 0, _ => []
  | n + 1, x => x :: generatorSeq n (gfStep x)

theorem generatorSeq_length (n : Nat) (x : Byte) : (generatorSeq n x).length = n := by
  induction n generalizing x <;> simp [generatorSeq, *]

/-- EXP after INIT: x_0 to x_254, then the second period, a copy of the first (40_table_ops.md R100). -/
def expAfterInit : Vector Byte 510 :=
  ⟨⟨generatorSeq 255 0x01#8 ++ generatorSeq 255 0x01#8⟩, by simp [generatorSeq_length]⟩

/-- The place of `x` in the first period of the generator sequence: the `i` with x_i = x, which INIT's step
`LOG[x_i] = i` writes at `x` (40_table_ops.md R100). -/
def generatorIndex (x : Byte) : Byte := BitVec.ofNat 8 ((generatorSeq 255 0x01#8).idxOf x)

/-- LOG after INIT, entries 1 to 255 (40_table_ops.md R100 corner case (a): each is written exactly once). -/
def logAfterInit : Vector Byte 255 :=
  ⟨⟨(List.range 255).map fun k => generatorIndex (BitVec.ofNat 8 (k + 1))⟩, by simp⟩

/-- Both tables after INIT; they do not depend on what stood there before. The loop of 40_table_ops.md R100 that writes
them entry by entry is `Sys2Proof.Safety.initTables` in Sys2Proof/Safety.lean, and a statement says the two agree (log 10). -/
def Tables.afterInit : Tables := ⟨expAfterInit, logAfterInit⟩

/-- INIT (40_table_ops.md R100): writes EXP[0..509], LOG[1..255] and READY; "cannot fail and does not need READY == 1". -/
def execInit (s : State) : Result :=
  ({ s with tables := Tables.afterInit, ready := true } : State).reply (.ok ([], []))

/-- The check and the read of EXPL (40_table_ops.md R101). -/
def explAnswer (t : Tables) (idx : BitVec 16) : Answer :=
  if h : idx.toNat < 510 then .ok (oneByte (t.expAt idx.toNat h)) else .error .indexOutOfRange

/-- EXPL idx (40_table_ops.md R101). -/
def execExpl (idx : BitVec 16) (s : State) : Result :=
  s.reply (needTables s.ready (capResult s.params (explAnswer s.tables idx)))

/-- The check and the read of LOGL (40_table_ops.md R102). -/
def loglAnswer (t : Tables) (x : Byte) : Answer :=
  if h : x = 0#8 then .error .logOfZero else .ok (oneByte (t.logAt x h))

/-- LOGL x (40_table_ops.md R102). -/
def execLogl (x : Byte) (s : State) : Result :=
  s.reply (needTables s.ready (capResult s.params (loglAnswer s.tables x)))

end Sys2Proof.Machine
end

