-- ==== Sys2Proof/Machine/Field.lean ====
section
/-! DEFINITION. GFADD, GFSUB, GFMUL, GFDIV (41_field_ops.md). -/

namespace Sys2Proof.Machine

/-- `GFAdd(x, y) = x xor y` (41_field_ops.md R110). -/
def gfAdd (x y : Byte) : Byte := x ^^^ y

/-- `GFSub(x, y) = x xor y` (41_field_ops.md R111). -/
def gfSub (x y : Byte) : Byte := x ^^^ y

/-- EXP at an exact sum of logarithms, reduced modulo 255: the index lies in [0,254] (41_field_ops.md R112, R114). -/
def expMod (t : Tables) (s : Nat) : Byte := t.expAt (s % 255) (Nat.lt_trans (Nat.mod_lt s (by decide)) (by decide))

/-- `GFMul(x, y)` (41_field_ops.md R112): 0 if an operand is 0, else EXP[(LOG[x] + LOG[y]) mod 255], the sum exact. -/
def gfMul (t : Tables) (x y : Byte) : Byte :=
  if hx : x = 0#8 then 0#8
  else if hy : y = 0#8 then 0#8
  else expMod t ((t.logAt x hx).toNat + (t.logAt y hy).toNat)

/-- `GFDiv(x, y)` (41_field_ops.md R113): the zero divisor is tested before the zero dividend. The difference
`LOG[x] + 255 - LOG[y]` is never negative, a logarithm being a byte. -/
def gfDiv (t : Tables) (x y : Byte) : Except Status Byte :=
  if hy : y = 0#8 then .error .divisionByZero
  else if hx : x = 0#8 then .ok 0#8
  else .ok (expMod t ((t.logAt x hx).toNat + 255 - (t.logAt y hy).toNat))

/-- GFADD x, y (41_field_ops.md R110): reads no table, served whatever READY is. -/
def execGfadd (x y : Byte) (s : State) : Result := s.reply (capResult s.params (.ok (oneByte (gfAdd x y))))

/-- GFSUB x, y (41_field_ops.md R111). -/
def execGfsub (x y : Byte) (s : State) : Result := s.reply (capResult s.params (.ok (oneByte (gfSub x y))))

/-- GFMUL x, y (41_field_ops.md R112). -/
def execGfmul (x y : Byte) (s : State) : Result :=
  s.reply (needTables s.ready (capResult s.params (.ok (oneByte (gfMul s.tables x y)))))

/-- GFDIV x, y (41_field_ops.md R113). -/
def execGfdiv (x y : Byte) (s : State) : Result :=
  s.reply (needTables s.ready (capResult s.params ((gfDiv s.tables x y).map oneByte)))

end Sys2Proof.Machine
end

