-- ==== Sys2Proof/Machine/Poly.lean ====
section
/-! DEFINITION. PMUL, PDIVMOD (42_poly_ops.md). A polynomial is a sequence of bytes, highest-degree coefficient first
(20_memory.md R43). -/

namespace Sys2Proof.Machine

/-- `PolyMul(p, q)` (42_poly_ops.md R120), the row of p[0] xored onto the product of the rest of p shifted by one place:
`r[i+j]` collects `GFMul(p[i], q[j])`, and the length is len(p) + len(q) - 1. -/
def polyMul (t : Tables) : List Byte → List Byte → List Byte
  | [], q => zeros (q.length - 1)
  | c :: p, q => xorFront (q.map (gfMul t c)) (0#8 :: polyMul t p q)

/-- The outer loop of `PolyDivMod` (42_poly_ops.md R121) for `n` more leading positions: the working copy begins with
the current coefficient, which stays as the quotient's and, unless it is 0, cancels along `tail`, the divisor's
coefficients after its first. What remains after the last position is the remainder. -/
def polyDivLoop (t : Tables) (tail : List Byte) : Nat → List Byte → List Byte × List Byte
  | 0, w => ([], w)
  | _ + 1, [] => ([], [])
  | n + 1, coef :: w =>
    let w' := if coef = 0#8 then w else xorFront (tail.map fun d => gfMul t d coef) w
    let rest := polyDivLoop t tail n w'
    (coef :: rest.1, rest.2)

/-- `PolyDivMod(dividend, divisor)` for a divisor of length m ≥ 1 that begins with 1 and a dividend of length
n ≥ m - 1 (42_poly_ops.md R121): n - m + 1 leading positions, quotient and remainder. -/
def polyDivMod (t : Tables) (dividend divisor : List Byte) : List Byte × List Byte :=
  polyDivLoop t divisor.tail (dividend.length + 1 - divisor.length) dividend

/-- The check and the product of PMUL (42_poly_ops.md R120). -/
def pmulAnswer (t : Tables) (p q : List Byte) : Answer :=
  if p.length = 0 ∨ q.length = 0 then .error .emptyPolynomial else .ok (bytesResult (polyMul t p q))

/-- PMUL ; p ; q (42_poly_ops.md R120). -/
def execPmul (p q : List Byte) (s : State) : Result :=
  s.reply (capPayload s.params p.length (capPayload s.params q.length
    (needTables s.ready (capResult s.params (pmulAnswer s.tables p q)))))

/-- The checks of PDIVMOD in their order and its two results (42_poly_ops.md R121). -/
def pdivmodAnswer (t : Tables) (dividend divisor : List Byte) : Answer :=
  if divisor.length = 0 then .error .emptyPolynomial
  else if divisor.head? ≠ some 0x01#8 then .error .nonMonicDivisor
  else if dividend.length < divisor.length - 1 then .error .dividendTooShort
  else
    .ok (byteSeq (polyDivMod t dividend divisor).1, byteSeq (polyDivMod t dividend divisor).2)

/-- PDIVMOD ; dividend ; divisor (42_poly_ops.md R121). -/
def execPdivmod (dividend divisor : List Byte) (s : State) : Result :=
  s.reply (capPayload s.params dividend.length (capPayload s.params divisor.length
    (needTables s.ready (capResult s.params (pdivmodAnswer s.tables dividend divisor)))))

end Sys2Proof.Machine
end

