-- ==== Sys2Proof/Machine/ReedSolomon.lean ====
section
/-! DEFINITION. GENPOLY, RSENC (43_rs_ops.md). -/

namespace Sys2Proof.Machine

/-- `GeneratorPoly(nsym)` (43_rs_ops.md R130): starting from [1], multiply by [1, EXP[i]] for i = 0 to nsym - 1. The
operand field holds at most 255, so every index lies in EXP. -/
def generatorPoly (t : Tables) : (nsym : Nat) → nsym ≤ 255 → List Byte
  | 0, _ => [0x01#8]
  | n + 1, h => polyMul t (generatorPoly t n (by omega)) [0x01#8, t.expAt n (by omega)]

/-- The generator polynomial for an operand byte. -/
def generatorOf (t : Tables) (nsym : Byte) : List Byte := generatorPoly t nsym.toNat (by omega)

/-- `RSEncode(message, nsym)` (43_rs_ops.md R131): the length test before any polynomial work, then the message followed
by the remainder of the padded message. -/
def rsEncode (t : Tables) (message : List Byte) (nsym : Byte) : Except Status (List Byte) :=
  if message.length + nsym.toNat > 255 then .error .lengthExceeded
  else .ok (message ++ (polyDivMod t (message ++ zeros nsym.toNat) (generatorOf t nsym)).2)

/-- GENPOLY nsym (43_rs_ops.md R130). -/
def execGenpoly (nsym : Byte) (s : State) : Result :=
  s.reply (needTables s.ready (capResult s.params (.ok (bytesResult (generatorOf s.tables nsym)))))

/-- RSENC nsym ; message (43_rs_ops.md R131). -/
def execRsenc (nsym : Byte) (message : List Byte) (s : State) : Result :=
  s.reply (capPayload s.params message.length
    (needTables s.ready (capResult s.params ((rsEncode s.tables message nsym).map bytesResult))))

end Sys2Proof.Machine
end

