-- ==== Sys2Proof/Machine/Pipeline.lean ====
section
/-! DEFINITION. QRENC (46_pipeline.md): Encode, Protect, Assemble. -/

namespace Sys2Proof.Machine

/-- Stage Protect (46_pipeline.md R170): the protected string is the original bits followed by the bits of the parity
bytes, not the unpacked codeword (90_conflicts.md C7). -/
def protectBits (t : Tables) (tail : PackTail) (nsym : Byte) (bits : List Bit) : Except Status (List Bit) :=
  let message := bytePack tail bits
  (rsEncode t message nsym).map fun codeword => bits ++ bitUnpack (codeword.drop message.length)

/-- The three stages in a row; "the first failing stage aborts the call" (46_pipeline.md R170). -/
def pipelineBits (t : Tables) (p : Params) (version nsym : Byte) (text : List CodePoint) : Except Status (List Bit) :=
  match dataEncode text with
  | .error e => .error e
  | .ok bits =>
    match protectBits t p.packTail nsym bits with
    | .error e => .error e
    | .ok guarded => .ok (createMatrix p version.toNat guarded)

/-- QRENC version, nsym ; text (46_pipeline.md R170). -/
def execQrenc (version nsym : Byte) (text : List CodePoint) (s : State) : Result :=
  s.reply (capPayload s.params text.length (needTables s.ready (capResult s.params
    (checkVersion s.params version ((pipelineBits s.tables s.params version nsym text).map bitsResult)))))

end Sys2Proof.Machine
end

