-- ==== Sys2Proof/Machine/Dispatch.lean ====
section
/-! DEFINITION. One arm for each row of 30_encoding.md R63. -/

namespace Sys2Proof.Machine

def exec (i : Instr) (s : State) : Host.Outcome State Fault Refusal :=
  match i with
  | .init => Sys2Proof.Machine.execInit s
  | .expl idx => Sys2Proof.Machine.execExpl idx s
  | .logl x => Sys2Proof.Machine.execLogl x s
  | .gfadd x y => Sys2Proof.Machine.execGfadd x y s
  | .gfsub x y => Sys2Proof.Machine.execGfsub x y s
  | .gfmul x y => Sys2Proof.Machine.execGfmul x y s
  | .gfdiv x y => Sys2Proof.Machine.execGfdiv x y s
  | .pmul p q => Sys2Proof.Machine.execPmul p q s
  | .pdivmod dividend divisor => Sys2Proof.Machine.execPdivmod dividend divisor s
  | .genpoly nsym => Sys2Proof.Machine.execGenpoly nsym s
  | .rsenc nsym message => Sys2Proof.Machine.execRsenc nsym message s
  | .bsenc text => Sys2Proof.Machine.execBsenc text s
  | .bpack bits => Sys2Proof.Machine.execBpack bits s
  | .bunpack bytes => Sys2Proof.Machine.execBunpack bytes s
  | .mxasm version bits => Sys2Proof.Machine.execMxasm version bits s
  | .qrenc version nsym text => Sys2Proof.Machine.execQrenc version nsym text s

end Sys2Proof.Machine
end

