-- ==== Sys2Proof/Machine/Step.lean ====
section
/-! DEFINITION. One step: one whole request (20_memory.md R46, R48), decoded and served. -/

namespace Sys2Proof.Machine

/-- Serve the oldest request. An illegal one is answered IllegalCommand (30_encoding.md R64); a step with no request
waiting changes nothing (log 4). -/
def step (s : State) : Host.Outcome State Fault Refusal :=
  match s.fetch with
  | none => .next s
  | some (r, s') =>
    match decode r with
    | .error e => .next (s'.rejectIllegal e)
    | .ok i => exec i s'

/-- The state with the request of a table word, its payloads empty, at the head of the queue: the next step serves it
(log 9). -/
def State.withFetchWord (s : State) (nbits w : Nat) : State :=
  { s with requests := requestOfTableWord nbits w :: s.requests }

end Sys2Proof.Machine
end

