-- ==== Sys2Proof/Safety.lean ====
section
/-! DEFINITION. The terms the statements use: the invariant of a safe run, what it is to answer a request, and the
pseudocode of the spec written as it stands (indexed loops over mutable sequences), beside which the machine's own
definitions are held. -/

namespace Sys2Proof.Safety

open Sys2Proof.Machine

/-! ### Answering -/

/-- The operation answers with the response and changes nothing else: a next state that is the old one with one more
response (30_encoding.md R66). -/
def Answers (i : Instr) (s : State) (r : Response) : Prop := exec i s = .next (s.respond r)

/-- A successful response whose R0 is the given bytes and whose R1 is empty. -/
def okBytes (l : List Byte) : Response := ⟨.ok, l.map (·.setWidth 32), []⟩

/-- A successful response whose R0 is the given bits and whose R1 is empty. -/
def okBits (l : List Bit) : Response := ⟨.ok, l.map (·.setWidth 32), []⟩

/-- A failing response: "both R0 and R1 are empty" (30_encoding.md R66). -/
def failure (e : Status) : Response := ⟨e, [], []⟩

/-- The response the block gives to the one request `r` from state `s`. -/
def responseTo (s : State) (r : Request) : Option Response :=
  match step { s with requests := [r], responses := [] } with
  | .next t => t.responses.head?
  | .fault _ => none
  | .refused _ => none

/-- A sequence of `n` elements is no longer than SEQ_MAX (30_encoding.md R65). -/
def WithinSeqMax (s : State) (n : Nat) : Prop := ∀ m, s.params.seqMax = some m → n ≤ m

/-- A sequence of `n` elements is longer than SEQ_MAX. -/
def BeyondSeqMax (s : State) (n : Nat) : Prop := ∃ m, s.params.seqMax = some m ∧ m < n

/-- The operations that read the tables: "every opcode except GFADD, GFSUB, BSENC, BPACK, BUNPACK, MXASM; INIT writes
them and is exempt" (30_encoding.md R68). -/
def ReadsTables : Instr → Bool
  | .init => false
  | .expl _ => true
  | .logl _ => true
  | .gfadd _ _ => false
  | .gfsub _ _ => false
  | .gfmul _ _ => true
  | .gfdiv _ _ => true
  | .pmul _ _ => true
  | .pdivmod _ _ => true
  | .genpoly _ => true
  | .rsenc _ _ => true
  | .bsenc _ => false
  | .bpack _ => false
  | .bunpack _ => false
  | .mxasm _ _ => false
  | .qrenc _ _ _ => true

/-- The lengths of an operation's payloads (30_encoding.md R63). -/
def payloadLengths : Instr → List Nat
  | .init => []
  | .expl _ => []
  | .logl _ => []
  | .gfadd _ _ => []
  | .gfsub _ _ => []
  | .gfmul _ _ => []
  | .gfdiv _ _ => []
  | .pmul p q => [p.length, q.length]
  | .pdivmod dividend divisor => [dividend.length, divisor.length]
  | .genpoly _ => []
  | .rsenc _ message => [message.length]
  | .bsenc text => [text.length]
  | .bpack bits => [bits.length]
  | .bunpack bytes => [bytes.length]
  | .mxasm _ bits => [bits.length]
  | .qrenc _ _ text => [text.length]

/-! ### The tables (10_state.md R21 to R24, 40_table_ops.md R100) -/

/-- `EXP[i] <- v`. -/
def setExp (t : Tables) (i : Nat) (v : Byte) : Tables := { t with exp := t.exp.setIfInBounds i v }

/-- `LOG[x] <- v` for a nonzero x. -/
def setLog (t : Tables) (x v : Byte) : Tables := { t with log := t.log.setIfInBounds (x.toNat - 1) v }

/-- INIT's first loop for `n` more iterations, at `i` with the term `x`: EXP[i] <- x, LOG[x] <- i, x = Step(x). -/
def initLoop : Nat → Nat → Byte → Tables → Tables
  | 0, _, _, t => t
  | n + 1, i, x, t => initLoop n (i + 1) (gfStep x) (setLog (setExp t i x) x (BitVec.ofNat 8 i))

/-- INIT's second loop for `n` more iterations, at `i`: EXP[i] <- EXP[i - 255]. -/
def initCopyLoop : Nat → Nat → Tables → Tables
  | 0, _, t => t
  | n + 1, i, t => initCopyLoop n (i + 1) (setExp t i (t.exp.toList.getD (i - 255) 0#8))

/-- The table writes of INIT as 40_table_ops.md R100 has them, over whatever the tables held. -/
def initTables (t : Tables) : Tables := initCopyLoop 255 255 (initLoop 255 0 0x01#8 t)

/-- x_i of the generator sequence (40_table_ops.md R100). -/
def generatorTerm : Nat → Byte
  | 0 => 0x01#8
  | i + 1 => gfStep (generatorTerm i)

/-- The tables hold the values of 10_state.md R21 and R22: EXP[i] is x_i, and LOG[x] is an i in [0,254] with
EXP[i] == x. -/
structure Built (t : Tables) : Prop where
  exp_eq : ∀ i (h : i < 510), t.expAt i h = generatorTerm i
  log_lt : ∀ x (h : x ≠ 0#8), (t.logAt x h).toNat < 255
  exp_log : ∀ x (h : x ≠ 0#8), t.expAt (t.logAt x h).toNat (by omega) = x

/-- The invariant: "READY == 1 means INIT has run and the tables hold the values of rules R21 and R22" (10_state.md R23). -/
def Inv (s : State) : Prop := s.ready = true → Built s.tables

/-- (a) to (f) of 10_state.md R24. -/
structure TableInvariants (t : Tables) : Prop where
  exp_log : ∀ x (h : x ≠ 0#8), t.expAt (t.logAt x h).toNat (by omega) = x
  log_one : t.logAt 0x01#8 (by decide) = 0x00#8
  periodic : ∀ i (h : i < 510), 255 ≤ i → t.expAt i h = t.expAt (i % 255) (by omega)
  exp_zero : t.expAt 0 (by decide) = 0x01#8
  log_exp : ∀ i (h : i < 255), ∃ h' : t.expAt i (by omega) ≠ 0#8, (t.logAt (t.expAt i (by omega)) h').toNat = i
  exp_one : t.expAt 1 (by decide) = 0x02#8
  log_two : t.logAt 0x02#8 (by decide) = 0x01#8

/-! ### The field and polynomials (41_field_ops.md R115, 42_poly_ops.md, 43_rs_ops.md) -/

/-- The first loop of `CarrylessMul` (41_field_ops.md R115): the product as polynomials over GF(2). -/
def carrylessProduct (x y : Byte) : BitVec 16 :=
  (List.range 8).foldl (fun r k => if y.getLsbD k then r ^^^ (x.setWidth 16 <<< k) else r) 0#16

/-- `CarrylessMul` (41_field_ops.md R115): the product reduced for k = 14 down to 8. -/
def carrylessMul (x y : Byte) : Byte :=
  ([14, 13, 12, 11, 10, 9, 8].foldl
    (fun r k => if r.getLsbD k then r ^^^ (0x11D#16 <<< (k - 8)) else r) (carrylessProduct x y)).setWidth 8

/-- The inner and outer loop of `PolyMul` as written (42_poly_ops.md R120). -/
def polyMulLoops (t : Tables) (p q : List Byte) : List Byte :=
  (List.range p.length).foldl
    (fun r i => (List.range q.length).foldl
      (fun r j => r.set (i + j) (r.getD (i + j) 0#8 ^^^ gfMul t (p.getD i 0#8) (q.getD j 0#8))) r)
    (zeros (p.length + q.length - 1))

/-- One pass of the outer loop of `PolyDivMod` as written, at position `i` of the working copy (42_poly_ops.md R121). -/
def polyDivPass (t : Tables) (divisor w : List Byte) (i : Nat) : List Byte :=
  let coef := w.getD i 0#8
  if coef = 0#8 then w
  else (List.range' 1 (divisor.length - 1)).foldl
    (fun w j => w.set (i + j) (w.getD (i + j) 0#8 ^^^ gfMul t (divisor.getD j 0#8) coef)) w

/-- `PolyDivMod` as written: n - m + 1 passes, then the working copy cut into quotient and remainder (42_poly_ops.md R121). -/
def polyDivModLoops (t : Tables) (dividend divisor : List Byte) : List Byte × List Byte :=
  let positions := dividend.length + 1 - divisor.length
  let w := (List.range positions).foldl (polyDivPass t divisor) dividend
  (w.take positions, w.drop positions)

/-- `GeneratorPoly` as written (43_rs_ops.md R130). -/
def generatorLoop (t : Tables) (nsym : Nat) : List Byte :=
  (List.range nsym).foldl (fun g i => polyMulLoops t g [0x01#8, t.exp.toList.getD i 0#8]) [0x01#8]

/-- The parity of `RSEncode` as written: the remainder of the padded message by the generator (43_rs_ops.md R131). -/
def parityLoop (t : Tables) (message : List Byte) (nsym : Nat) : List Byte :=
  (polyDivModLoops t (message ++ zeros nsym) (generatorLoop t nsym)).2

/-- Horner's rule with GFMul and xor (43_rs_ops.md R130 corner case (e)). -/
def horner (t : Tables) (r : Byte) (p : List Byte) : Byte := p.foldl (fun y c => gfMul t y r ^^^ c) 0#8

/-- Entrywise xor of two sequences of equal length. -/
def xorEntries (a b : List Byte) : List Byte := List.zipWith (· ^^^ ·) a b

/-! ### Bit strings (44_bitstring_ops.md) -/

/-- The value of the group of `BytePack` that begins at position 8k: Σ of its bits, the first the most significant,
moved up by the missing places when PACK_TAIL is ZERO_PAD_RIGHT (44_bitstring_ops.md R141). -/
def groupNumber (tail : PackTail) (bits : List Bit) (k : Nat) : Nat :=
  let u := min 8 (bits.length - 8 * k)
  let v := ((List.range u).map fun j => (bits.getD (8 * k + j) 0#1).toNat * 2 ^ (u - 1 - j)).sum
  match tail with
  | .zeroPadRight => v * 2 ^ (8 - u)
  | .rightAlign => v

/-! ### The matrix (45_matrix_ops.md) -/

/-- The distance of row i, column j from the centre (c, c) of a bitmap, max(|i-c|, |j-c|) (45_matrix_ops.md R151, R152). -/
def ringDistance (c i j : Nat) : Nat := max (max (i - c) (c - i)) (max (j - c) (c - j))

/-- FINDER[i][j] by its closed form: "0 exactly when max(|i-3|, |j-3|) = 2, else 1" (45_matrix_ops.md R151). -/
def finderBit (i j : Nat) : Bit := if ringDistance 3 i j = 2 then 0#1 else 1#1

/-- ALIGN[i][j] by its closed form: "0 exactly when max(|i-2|, |j-2|) = 1, else 1" (45_matrix_ops.md R152). -/
def alignBit (i j : Nat) : Bit := if ringDistance 2 i j = 1 then 0#1 else 1#1

/-- The grids M and F of `CreateMatrix` (45_matrix_ops.md R156). -/
structure Grid where
  cell : Nat → Nat → Bit
  fixed : Nat → Nat → Bool

/-- Every cell 0, none fixed. -/
def Grid.blank : Grid := ⟨fun _ _ => 0#1, fun _ _ => false⟩

/-- `Place(M, F, B, h, r0, c0)` (45_matrix_ops.md R156). -/
def Grid.place (bitmap : Nat → Nat → Bit) (h r0 c0 : Nat) (g : Grid) : Grid where
  cell r c := if r0 ≤ r ∧ r < r0 + h ∧ c0 ≤ c ∧ c < c0 + h then bitmap (r - r0) (c - c0) else g.cell r c
  fixed r c := decide (r0 ≤ r ∧ r < r0 + h ∧ c0 ≤ c ∧ c < c0 + h) || g.fixed r c

/-- The bitmaps placed in the order of `CreateMatrix` (45_matrix_ops.md R156). -/
def structuralGrid (p : Params) (version : Nat) : Grid :=
  let size := 4 * version + 17
  let g := ((Grid.blank.place finderBit 7 0 0).place finderBit 7 0 (size - 7)).place finderBit 7 (size - 7) 0
  if version > 1 then g.place alignBit 5 p.alignR0 p.alignC0 else g

/-- One cell of the scan of `CreateMatrix`, with the cells written so far and the index k of the next bit. -/
def scanCell (g : Grid) (bits : List Bit) (acc : List Bit × Nat) (rc : Nat × Nat) : List Bit × Nat :=
  if g.fixed rc.1 rc.2 then (acc.1 ++ [g.cell rc.1 rc.2], acc.2)
  else if acc.2 < bits.length then (acc.1 ++ [bits.getD acc.2 0#1], acc.2 + 1)
  else (acc.1 ++ [g.cell rc.1 rc.2], acc.2)

/-- `CreateMatrix` as written, serialised row-major (45_matrix_ops.md R156). -/
def createMatrixLoops (p : Params) (version : Nat) (bits : List Bit) : List Bit :=
  ((rowMajor (4 * version + 17)).foldl (scanCell (structuralGrid p version) bits) ([], 0)).1

/-- Membership of FIXED(version), the four footprints of 45_matrix_ops.md R153. -/
def IsFixed (p : Params) (version r c : Nat) : Bool :=
  let size := 4 * version + 17
  decide (r ≤ 6 ∧ c ≤ 6)
    || decide (r ≤ 6 ∧ size - 7 ≤ c ∧ c ≤ size - 1)
    || decide (size - 7 ≤ r ∧ r ≤ size - 1 ∧ c ≤ 6)
    || decide (version > 1 ∧ p.alignR0 ≤ r ∧ r ≤ p.alignR0 + 4 ∧ p.alignC0 ≤ c ∧ c ≤ p.alignC0 + 4)

/-- The free cells of a version in row-major order (45_matrix_ops.md R153). -/
def freeCells (p : Params) (version : Nat) : List (Nat × Nat) :=
  (rowMajor (4 * version + 17)).filter fun rc => !IsFixed p version rc.1 rc.2

/-- The version is admitted: at least 1, and above 1 the alignment position meets 45_matrix_ops.md R154. -/
def Admitted (p : Params) (version : Nat) : Prop := 1 ≤ version ∧ (1 < version → alignmentFits p version = true)

/-! ### The pipeline (46_pipeline.md R170) -/

/-- The bits of the matrix QRENC returns when no stage fails: `bits` of the text, protected and assembled. -/
def pipelineMatrix (t : Tables) (p : Params) (version nsym : Nat) (text : List CodePoint) : List Bit :=
  let bits := modeIndicator ++ bits8 (BitVec.ofNat 8 text.length) ++ text.flatMap fun c => bits8 (c.setWidth 8)
  let message := (List.range ((bits.length + 7) / 8)).map fun k => BitVec.ofNat 8 (groupNumber p.packTail bits k)
  createMatrixLoops p version (bits ++ (parityLoop t message nsym).flatMap bits8)

end Sys2Proof.Safety
end

