-- ==== Sys2Proof/Certificates/Slice0/Obligations.lean ====
section
/-! DEFINITION. The statements for the provers, from the numbered rules of spec/. -/

open Sys2Proof Sys2Proof.Machine Sys2Proof.Safety

/-! ### Encoding (30_encoding.md) -/

/-- Decoding an encoded operation gives it back, every operand and payload element at every value (30_encoding.md R61 to
R65). -/
def Obligations.DecodingAnEncodedOperationGivesItBack : Prop :=
  ∀ i : Instr, decode (encode i) = .ok i

/-- Decoding drops nothing of a well-formed request: encoding what was decoded gives the request back, so each legal
word has one meaning (30_encoding.md R62, R63, R65). The container of 32 bits for every payload element, and so the
premise that each element fits its type, is the model's choice (log 6). -/
def Obligations.EncodingADecodedRequestGivesItBack : Prop :=
  ∀ (r : Request) (i : Instr), r.wellFormed = true → decode r = .ok i → encode i = r

/-- 30_encoding.md R64: at most one row is selected, a request decodes exactly when some row is selected and finds its
unused payloads empty, and each of the cases (a), (b), (c) is answered IllegalCommand with no result and no change of
state. -/
def Obligations.EveryRequestSelectsOneRowOrIsIllegal : Prop :=
  (∀ (w : Command), ∀ row ∈ opRows, ∀ row' ∈ opRows,
      row.selects w = true → row'.selects w = true → row = row') ∧
  (∀ r : Request, r.legal = true ↔ ∃ i, decode r = .ok i) ∧
  (∀ (s : State) (r : Request) (rest : List Request), s.requests = r :: rest →
      ((opcodeField r.cmd ∉ ([0x01, 0x02, 0x03, 0x10, 0x11, 0x12, 0x13, 0x20, 0x21, 0x30, 0x31, 0x40, 0x41, 0x42,
            0x50, 0x60] : List Byte)) ∨
        (∃ row ∈ opRows, opcodeField row.pattern = opcodeField r.cmd ∧ row.selects r.cmd = false) ∨
        (∃ row ∈ opRows, row.selects r.cmd = true ∧ row.unusedEmpty r = false)) →
      step s = .next (({ s with requests := rest } : State).respond (failure .illegalCommand)))

/-- Words the spec writes out decode to the operations they stand for (30_encoding.md R69, 95_test_vectors.md 2.8). -/
def Obligations.WordsTheSpecWritesOutDecode : Prop :=
  decodeTableWord 32 0x01000000 = some .init ∧
  decodeTableWord 32 0x0200012C = some (.expl 300#16) ∧
  decodeTableWord 32 0x031D0000 = some (.logl 0x1D#8) ∧
  decodeTableWord 32 0x1053CA00 = some (.gfadd 0x53#8 0xCA#8) ∧
  decodeTableWord 32 0x1153CA00 = some (.gfsub 0x53#8 0xCA#8) ∧
  decodeTableWord 32 0x1253CA00 = some (.gfmul 0x53#8 0xCA#8) ∧
  decodeTableWord 32 0x131D0200 = some (.gfdiv 0x1D#8 0x02#8) ∧
  decode ⟨0x20000000#32, [1, 2], [1, 3]⟩ = .ok (.pmul [1, 2] [1, 3]) ∧
  decode ⟨0x21000000#32, [1, 2, 3, 4, 5], [1, 3, 2]⟩ = .ok (.pdivmod [1, 2, 3, 4, 5] [1, 3, 2]) ∧
  decodeTableWord 32 0x300A0000 = some (.genpoly 10#8) ∧
  decode ⟨0x31020000#32, [1, 2, 3], []⟩ = .ok (.rsenc 2#8 [1, 2, 3]) ∧
  decode ⟨0x40000000#32, [0x41], []⟩ = .ok (.bsenc [0x41]) ∧
  decode ⟨0x41000000#32, [1, 0, 1], []⟩ = .ok (.bpack [1, 0, 1]) ∧
  decode ⟨0x42000000#32, [0x69, 0x14], []⟩ = .ok (.bunpack [0x69, 0x14]) ∧
  decode ⟨0x50010000#32, [1, 0, 1, 1], []⟩ = .ok (.mxasm 1#8 [1, 0, 1, 1]) ∧
  decode ⟨0x60010700#32, [0x41], []⟩ = .ok (.qrenc 1#8 7#8 [0x41])

/-! ### The step, reset and the invariant -/

/-- A step takes the oldest request off the queue and runs the operation it decodes to; nothing else is added around
exec (20_memory.md R48). That the requests wait in a queue of State is the model's choice (log 1). -/
def Obligations.StepRunsTheDecodedOperation : Prop :=
  ∀ (s : State) (r : Request) (rest : List Request) (i : Instr), s.requests = r :: rest → decode r = .ok i →
    step s = exec i { s with requests := rest }

/-- Every step answers a next state: with a request waiting, the oldest one is taken and exactly one response is
appended, the response to that request (20_memory.md R48, 30_encoding.md R60, 70_reset_and_hazards.md R204); with none
waiting nothing changes (the model's choice, log 4). -/
def Obligations.EveryStepAnswersTheOldestRequest : Prop :=
  ∀ s : State, (s.requests = [] → step s = .next s) ∧
    ∀ (r : Request) (rest : List Request), s.requests = r :: rest →
      ∃ t resp, step s = .next t ∧ t.requests = rest ∧ t.responses = s.responses ++ [resp] ∧ t.params = s.params ∧
        responseTo s r = some resp

/-- Reset: READY is 0, no request is in progress, no response pending (70_reset_and_hazards.md R200); PACK_TAIL and
SEQ_MAX are the spec's defaults (00_scope.md R7), which is the model's choice of instance (log 2). -/
def Obligations.ResetIsNotReadyAndIdle : Prop :=
  State.reset.ready = false ∧ State.reset.requests = [] ∧ State.reset.responses = [] ∧
    State.reset.params.packTail = .zeroPadRight ∧ State.reset.params.seqMax = none

/-- The invariant holds at reset (10_state.md R23, R32). -/
def Obligations.InvariantHoldsAtReset : Prop := Inv State.reset

/-- Every step keeps the invariant "READY == 1 means the tables hold the values of rules R21 and R22" (10_state.md R23),
from every state that has it; no step clears READY ("cleared only by reset") and none writes an instance parameter
(10_state.md R28). -/
def Obligations.EveryStepKeepsTheInvariant : Prop :=
  ∀ s t : State, Inv s → step s = .next t → Inv t ∧ (s.ready = true → t.ready = true) ∧ t.params = s.params

/-- 10_state.md R24: whenever READY is 1 (in a state with the invariant), (a) to (f) hold, and no operation other than
INIT changes either table. -/
def Obligations.ReadyTablesSatisfyTheTableInvariants : Prop :=
  (∀ s : State, Inv s → s.ready = true → TableInvariants s.tables) ∧
  (∀ (i : Instr) (s t : State), i ≠ .init → exec i s = .next t → t.tables = s.tables)

/-! ### Frames and failures -/

/-- The frame of the fifteen operations other than INIT: each always answers a next state, which is the old state with
one response more. EXP, LOG, READY, the parameters and the queue are unchanged (10_state.md R20, 47_operation_classes.md
R177). -/
def Obligations.OperationsOtherThanInitOnlyAnswer : Prop :=
  ∀ (i : Instr) (s : State), i ≠ .init → ∃ r, Answers i s r

/-- 60_exceptions.md R184: a response with a status other than OK has empty results, and the state is what it was, but
for the request taken and the response given. -/
def Obligations.FailuresLeaveNoTrace : Prop :=
  ∀ (s t : State) (r : Request) (rest : List Request) (resp : Response), s.requests = r :: rest → step s = .next t →
    t.responses = s.responses ++ [resp] → resp.status ≠ .ok →
      resp.r0 = [] ∧ resp.r1 = [] ∧ t = { s with requests := rest, responses := s.responses ++ [resp] }

/-- Operations that can never fail once decoded and, where needed, ready, leaving aside CapacityExceeded, which needs a
bounded SEQ_MAX (60_exceptions.md R182). -/
def Obligations.OperationsThatCannotFail : Prop :=
  ∀ (i : Instr) (s t : State) (r : Response), exec i s = .next t → t.responses = s.responses ++ [r] →
    (i = .init ∨ (∃ x y, i = .gfadd x y) ∨ (∃ x y, i = .gfsub x y) ∨ (∃ x y, i = .gfmul x y ∧ s.ready = true) ∨
      (∃ n, i = .genpoly n ∧ s.ready = true) ∨ (∃ b, i = .bpack b) ∨ ∃ b, i = .bunpack b) →
    r.status = .ok ∨ (r.status = .capacityExceeded ∧ s.params.seqMax ≠ none)

/-- While READY is 0 the nine table-reading operations answer TablesNotReady, whatever their operands, once their
payloads are within SEQ_MAX; the other seven never give that answer (30_encoding.md R68 (5), 70_reset_and_hazards.md
R201). -/
def Obligations.TableReadersWaitForInit : Prop :=
  (∀ (i : Instr) (s : State), ReadsTables i = true → s.ready = false →
      (∀ n ∈ payloadLengths i, WithinSeqMax s n) → Answers i s (failure .tablesNotReady)) ∧
  (∀ (i : Instr) (s t : State) (r : Response), ReadsTables i = false → exec i s = .next t →
      t.responses = s.responses ++ [r] → r.status ≠ .tablesNotReady)

/-- The capacity rule (30_encoding.md R65): a payload longer than SEQ_MAX is answered CapacityExceeded before anything
else is looked at; an OK answer holds no result longer than SEQ_MAX; with an unbounded SEQ_MAX the status never occurs.
That the results of one byte are held to SEQ_MAX as well is the model's reading (log 7). -/
def Obligations.SequencesStayWithinSeqMax : Prop :=
  (∀ (i : Instr) (s : State) (n : Nat), n ∈ payloadLengths i → BeyondSeqMax s n →
      Answers i s (failure .capacityExceeded)) ∧
  (∀ (i : Instr) (s t : State) (r : Response), exec i s = .next t → t.responses = s.responses ++ [r] →
      r.status = .ok → WithinSeqMax s r.r0.length ∧ WithinSeqMax s r.r1.length) ∧
  (∀ (i : Instr) (s t : State) (r : Response), s.params.seqMax = none → exec i s = .next t →
      t.responses = s.responses ++ [r] → r.status ≠ .capacityExceeded)

/-- 30_encoding.md R65, R68 (7) and 60_exceptions.md R183 (5): an operation whose payloads are within SEQ_MAX, which is
ready where it reads the tables and whose own checks pass, answers CapacityExceeded when the result its rule gives is
longer than SEQ_MAX. INIT has no result; the results of PDIVMOD and BPACK are never longer than a payload, and their own
statements give their answers without a premise on the result. For the six operations with a result of one byte
(SEQ_MAX = 0) this is the model's reading of rules that differ (log 7). -/
def Obligations.ResultsBeyondSeqMaxAreRefused : Prop :=
  ∀ s : State,
    (∀ x y : Byte, BeyondSeqMax s 1 →
      Answers (.gfadd x y) s (failure .capacityExceeded) ∧ Answers (.gfsub x y) s (failure .capacityExceeded)) ∧
    (s.ready = true → BeyondSeqMax s 1 →
      (∀ idx : BitVec 16, idx.toNat < 510 → Answers (.expl idx) s (failure .capacityExceeded)) ∧
      (∀ x : Byte, x ≠ 0#8 → Answers (.logl x) s (failure .capacityExceeded)) ∧
      (∀ x y : Byte, Answers (.gfmul x y) s (failure .capacityExceeded)) ∧
      (∀ x y : Byte, y ≠ 0#8 → Answers (.gfdiv x y) s (failure .capacityExceeded))) ∧
    (s.ready = true → ∀ p q : List Byte, WithinSeqMax s p.length → WithinSeqMax s q.length → p ≠ [] → q ≠ [] →
      BeyondSeqMax s (p.length + q.length - 1) → Answers (.pmul p q) s (failure .capacityExceeded)) ∧
    (s.ready = true → ∀ nsym : Byte, BeyondSeqMax s (nsym.toNat + 1) →
      Answers (.genpoly nsym) s (failure .capacityExceeded)) ∧
    (s.ready = true → ∀ (nsym : Byte) (message : List Byte), WithinSeqMax s message.length →
      message.length + nsym.toNat ≤ 255 → BeyondSeqMax s (message.length + nsym.toNat) →
      Answers (.rsenc nsym message) s (failure .capacityExceeded)) ∧
    (∀ text : List CodePoint, WithinSeqMax s text.length → text.length ≤ 255 → (∀ c ∈ text, c.toNat ≤ 255) →
      BeyondSeqMax s (12 + 8 * text.length) → Answers (.bsenc text) s (failure .capacityExceeded)) ∧
    (∀ bytes : List Byte, WithinSeqMax s bytes.length → BeyondSeqMax s (8 * bytes.length) →
      Answers (.bunpack bytes) s (failure .capacityExceeded)) ∧
    (∀ (version : Byte) (bits : List Bit), WithinSeqMax s bits.length → Admitted s.params version.toNat →
      BeyondSeqMax s ((4 * version.toNat + 17) * (4 * version.toNat + 17)) →
      Answers (.mxasm version bits) s (failure .capacityExceeded)) ∧
    (s.ready = true → ∀ (version nsym : Byte) (text : List CodePoint), WithinSeqMax s text.length →
      Admitted s.params version.toNat → (∀ c ∈ text, c.toNat ≤ 255) → text.length + 2 + nsym.toNat ≤ 255 →
      BeyondSeqMax s ((4 * version.toNat + 17) * (4 * version.toNat + 17)) →
      Answers (.qrenc version nsym text) s (failure .capacityExceeded))

/-! ### Order and independence of requests (20_memory.md R48, R49) -/

/-- Before INIT no response depends on what the tables hold (10_state.md R32): the free values of the reset tables are
not observable. -/
def Obligations.ResponsesBeforeInitIgnoreTheTables : Prop :=
  ∀ (s : State) (other : Tables) (r : Request), s.ready = false →
    responseTo { s with tables := other } r = responseTo s r

/-- 20_memory.md R49: once READY is 1, no operation writes any state, and the response to a request is a function of
that request and the instance parameters alone, so two ready states with the same parameters give every request the
same response, whatever was served before. -/
def Obligations.ResponsesAfterInitDependOnTheRequestAlone : Prop :=
  ∀ s s' : State, Inv s → Inv s' → s.ready = true → s'.ready = true → s.params = s'.params →
    (∀ r : Request, responseTo s r = responseTo s' r) ∧
    (∀ t : State, step s = .next t → t.tables = s.tables ∧ t.ready = s.ready ∧ t.params = s.params)

/-- A queue of requests is answered one by one in order: from a ready state, as many steps as there are requests give
exactly the responses each request has by itself, in the queue's order, and change nothing else (20_memory.md R48, R49).
That the machine holds a queue of its own is the model's choice (log 1): the spec leaves queueing to the platform. -/
def Obligations.QueuedRequestsAreAnsweredInOrder : Prop :=
  ∀ s : State, Inv s → s.ready = true →
    ∃ answers : List Response, answers.map some = s.requests.map (responseTo s) ∧
      Host.Core.run Sys2Proof.core s.requests.length s =
        .next { s with requests := [], responses := s.responses ++ answers }

/-! ### Table operations (40_table_ops.md) -/

/-- INIT completes from every state, and the tables it leaves are those of the loops of 40_table_ops.md R100 run entry
by entry over whatever the tables held; they hold the values of 10_state.md R21 and R22. -/
def Obligations.InitWritesTheTablesOfThePseudocode : Prop :=
  ∀ s : State,
    exec .init s = .next (({ s with tables := initTables s.tables, ready := true } : State).respond (okBytes [])) ∧
    Built (initTables s.tables)

/-- INIT issued when READY is 1 writes the same values again: only the response is new (40_table_ops.md R100 (d)). -/
def Obligations.SecondInitChangesNothing : Prop :=
  ∀ s : State, Inv s → s.ready = true → Answers .init s (okBytes [])

/-- EXPL returns EXP[idx] for idx below 510; the index space ends there (40_table_ops.md R101). The premise on SEQ_MAX
leaves out SEQ_MAX = 0 (log 7). -/
def Obligations.ExplReadsOneEntryOfExp : Prop :=
  ∀ (idx : BitVec 16) (s : State),
    (s.ready = false → Answers (.expl idx) s (failure .tablesNotReady)) ∧
    (s.ready = true → 510 ≤ idx.toNat → Answers (.expl idx) s (failure .indexOutOfRange)) ∧
    (s.ready = true → WithinSeqMax s 1 → ∀ h : idx.toNat < 510,
      Answers (.expl idx) s (okBytes [s.tables.expAt idx.toNat h]))

/-- LOGL returns LOG[x] for a nonzero x; LOG[0] is refused (40_table_ops.md R102). The premise on SEQ_MAX leaves out
SEQ_MAX = 0 (log 7). -/
def Obligations.LoglReadsOneEntryOfLog : Prop :=
  ∀ (x : Byte) (s : State),
    (s.ready = false → Answers (.logl x) s (failure .tablesNotReady)) ∧
    (s.ready = true → x = 0#8 → Answers (.logl x) s (failure .logOfZero)) ∧
    (s.ready = true → WithinSeqMax s 1 → ∀ h : x ≠ 0#8, Answers (.logl x) s (okBytes [s.tables.logAt x h]))

/-! ### Field operations (41_field_ops.md) -/

/-- GFADD and GFSUB from the command word to the response, whatever READY is (41_field_ops.md R110, R111): the xor of
the two operand bytes, or IllegalCommand when `cmd[7:0] != 0`. The premise on SEQ_MAX leaves out SEQ_MAX = 0, where the
model reads 30_encoding.md R68 (7) to refuse the result (log 7). -/
def Obligations.AddAndSubtractAreXor : Prop :=
  (∀ (x y : Byte) (s : State), WithinSeqMax s 1 →
      Answers (.gfadd x y) s (okBytes [x ^^^ y]) ∧ Answers (.gfsub x y) s (okBytes [x ^^^ y])) ∧
  (∀ x y : Byte,
      encode (.gfadd x y) = ⟨0x10000000#32 + (x.setWidth 32 <<< 16) + (y.setWidth 32 <<< 8), [], []⟩ ∧
      encode (.gfsub x y) = ⟨0x11000000#32 + (x.setWidth 32 <<< 16) + (y.setWidth 32 <<< 8), [], []⟩) ∧
  (∀ (s : State) (w : Command) (rest : List Request), s.requests = ⟨w, [], []⟩ :: rest →
      w.extractLsb' 24 8 = 0x10#8 ∨ w.extractLsb' 24 8 = 0x11#8 →
      (w.extractLsb' 0 8 = 0#8 → WithinSeqMax s 1 → step s = .next (({ s with requests := rest } : State).respond
        (okBytes [w.extractLsb' 16 8 ^^^ w.extractLsb' 8 8]))) ∧
      (w.extractLsb' 0 8 ≠ 0#8 →
        step s = .next (({ s with requests := rest } : State).respond (failure .illegalCommand))))

/-- GFMUL (41_field_ops.md R112): 0 when an operand is 0, else EXP at the exact sum of the logarithms modulo 255. The
premise on SEQ_MAX leaves out SEQ_MAX = 0 (log 7). -/
def Obligations.GfmulReadsExpAtTheLogSum : Prop :=
  ∀ (x y : Byte) (s : State),
    (s.ready = false → Answers (.gfmul x y) s (failure .tablesNotReady)) ∧
    (s.ready = true → WithinSeqMax s 1 → x = 0#8 ∨ y = 0#8 → Answers (.gfmul x y) s (okBytes [0x00#8])) ∧
    (s.ready = true → WithinSeqMax s 1 → ∀ (hx : x ≠ 0#8) (hy : y ≠ 0#8), Answers (.gfmul x y) s
      (okBytes [s.tables.expAt (((s.tables.logAt x hx).toNat + (s.tables.logAt y hy).toNat) % 255) (by omega)]))

/-- GFDIV (41_field_ops.md R113): the zero divisor first, then the zero dividend, else EXP at LOG[x] + 255 - LOG[y]
modulo 255. The premise on SEQ_MAX leaves out SEQ_MAX = 0 (log 7). -/
def Obligations.GfdivReadsExpAtTheLogDifference : Prop :=
  ∀ (x y : Byte) (s : State),
    (s.ready = false → Answers (.gfdiv x y) s (failure .tablesNotReady)) ∧
    (s.ready = true → y = 0#8 → Answers (.gfdiv x y) s (failure .divisionByZero)) ∧
    (s.ready = true → WithinSeqMax s 1 → y ≠ 0#8 → x = 0#8 → Answers (.gfdiv x y) s (okBytes [0x00#8])) ∧
    (s.ready = true → WithinSeqMax s 1 → ∀ (hx : x ≠ 0#8) (hy : y ≠ 0#8), Answers (.gfdiv x y) s
      (okBytes [s.tables.expAt (((s.tables.logAt x hx).toNat + 255 - (s.tables.logAt y hy).toNat) % 255) (by omega)]))

/-- 41_field_ops.md R115: over the tables INIT builds, GFMul is multiplication of polynomials over GF(2) modulo the
polynomial with bit pattern 0x11D, and EXP[i] is the i-th power of z. -/
def Obligations.GfmulIsMultiplicationModulo0x11D : Prop :=
  ∀ t : Tables, Built t →
    (∀ x y : Byte, gfMul t x y = carrylessMul x y) ∧
    (∀ (i : Nat) (h : i < 510), t.expAt i h = (fun z => carrylessMul z 0x02#8)^[i] 0x01#8)

/-- The field laws of 41_field_ops.md R112 and R113 over the tables INIT builds: identity, zero, commutativity,
associativity, distributivity over GFAdd, and the inverse law mul(x, div(y, x)) == y. -/
def Obligations.FieldLawsHoldAfterInit : Prop :=
  ∀ t : Tables, Built t → ∀ x y z : Byte,
    gfMul t x 0x01#8 = x ∧ gfMul t x 0x00#8 = 0x00#8 ∧ gfMul t x y = gfMul t y x ∧
    gfMul t (gfMul t x y) z = gfMul t x (gfMul t y z) ∧
    gfMul t x (gfAdd y z) = gfAdd (gfMul t x y) (gfMul t x z) ∧
    (x ≠ 0#8 → ∃ q, gfDiv t y x = .ok q ∧ gfMul t x q = y) ∧
    (x ≠ 0#8 → gfDiv t (gfMul t y x) x = .ok y)

/-! ### Polynomial operations (42_poly_ops.md) -/

/-- PMUL (42_poly_ops.md R120): the loops as written, over two non-empty operands. -/
def Obligations.PmulReturnsTheProductOfThePseudocode : Prop :=
  ∀ (p q : List Byte) (s : State), WithinSeqMax s p.length → WithinSeqMax s q.length →
    (s.ready = false → Answers (.pmul p q) s (failure .tablesNotReady)) ∧
    (s.ready = true → p = [] ∨ q = [] → Answers (.pmul p q) s (failure .emptyPolynomial)) ∧
    (s.ready = true → p ≠ [] → q ≠ [] → WithinSeqMax s (p.length + q.length - 1) →
      Answers (.pmul p q) s (okBytes (polyMulLoops s.tables p q)))

/-- "r[k] is the xor of GFMul(p[i], q[j]) over all pairs with i + j = k", and the degree law
(42_poly_ops.md R120 (a), (b)). -/
def Obligations.ProductCoefficientsAreConvolutions : Prop :=
  ∀ (t : Tables) (p q : List Byte), p ≠ [] → q ≠ [] →
    (polyMul t p q).length = p.length + q.length - 1 ∧
    ∀ k, k < p.length + q.length - 1 → (polyMul t p q).getD k 0#8 =
      ((List.range (k + 1)).map fun i => gfMul t (p.getD i 0#8) (q.getD (k - i) 0#8)).foldl (· ^^^ ·) 0#8

/-- PDIVMOD (42_poly_ops.md R121): the passes over the working copy as written, and the three refusals in their
order. Neither result is longer than the payload it is cut from. -/
def Obligations.PdivmodReturnsTheDivisionOfThePseudocode : Prop :=
  ∀ (dividend divisor : List Byte) (s : State), WithinSeqMax s dividend.length → WithinSeqMax s divisor.length →
    (s.ready = false → Answers (.pdivmod dividend divisor) s (failure .tablesNotReady)) ∧
    (s.ready = true → divisor = [] → Answers (.pdivmod dividend divisor) s (failure .emptyPolynomial)) ∧
    (s.ready = true → ∀ c rest, divisor = c :: rest → c ≠ 0x01#8 →
      Answers (.pdivmod dividend divisor) s (failure .nonMonicDivisor)) ∧
    (s.ready = true → ∀ rest, divisor = 0x01#8 :: rest → dividend.length < rest.length →
      Answers (.pdivmod dividend divisor) s (failure .dividendTooShort)) ∧
    (s.ready = true → ∀ rest, divisor = 0x01#8 :: rest → rest.length ≤ dividend.length →
      Answers (.pdivmod dividend divisor) s
        ⟨.ok, (polyDivModLoops s.tables dividend divisor).1.map (·.setWidth 32),
          (polyDivModLoops s.tables dividend divisor).2.map (·.setWidth 32)⟩)

/-- The division identity (42_poly_ops.md R121 (a)) over the tables INIT builds: when the quotient is non-empty, the
dividend is the product of quotient and divisor, xor-ed entrywise with zeros ++ remainder. -/
def Obligations.DividendIsQuotientTimesDivisorPlusRemainder : Prop :=
  ∀ (t : Tables) (dividend divisor : List Byte), Built t → divisor.head? = some 0x01#8 →
    divisor.length ≤ dividend.length →
    dividend = xorEntries (polyMul t (polyDivMod t dividend divisor).1 divisor)
      (zeros (dividend.length + 1 - divisor.length) ++ (polyDivMod t dividend divisor).2)

/-- 42_poly_ops.md R122: dividing a product by its monic factor gives the other factor and an all-zero remainder, and
every length is a function of the operand lengths alone. -/
def Obligations.DivisionUndoesMultiplication : Prop :=
  ∀ t : Tables, Built t →
    (∀ p q : List Byte, p ≠ [] → q.head? = some 0x01#8 →
      polyDivMod t (polyMul t p q) q = (p, zeros (q.length - 1))) ∧
    (∀ p q : List Byte, p ≠ [] → q ≠ [] → (polyMul t p q).length = p.length + q.length - 1) ∧
    (∀ dividend divisor : List Byte, divisor ≠ [] → divisor.length - 1 ≤ dividend.length →
      (polyDivMod t dividend divisor).1.length + divisor.length = dividend.length + 1 ∧
        (polyDivMod t dividend divisor).2.length = divisor.length - 1)

/-! ### Reed–Solomon operations (43_rs_ops.md) -/

/-- GENPOLY (43_rs_ops.md R130): the product of the factors [1, EXP[i]] in the order of the loop, for every nsym. -/
def Obligations.GenpolyReturnsTheProductOfTheFactors : Prop :=
  ∀ (nsym : Byte) (s : State),
    (s.ready = false → Answers (.genpoly nsym) s (failure .tablesNotReady)) ∧
    (s.ready = true → WithinSeqMax s (nsym.toNat + 1) →
      Answers (.genpoly nsym) s (okBytes (generatorLoop s.tables nsym.toNat)))

/-- The generator over the tables INIT builds is monic of degree nsym, its last coefficient is not 0, and it vanishes at
EXP[0] to EXP[nsym-1] (43_rs_ops.md R130 (b), (c), (e)). -/
def Obligations.GeneratorIsMonicAndVanishesAtItsRoots : Prop :=
  ∀ (t : Tables) (nsym : Byte), Built t →
    (generatorOf t nsym).length = nsym.toNat + 1 ∧ (generatorOf t nsym).head? = some 0x01#8 ∧
    (generatorOf t nsym).getLast? ≠ some 0x00#8 ∧
    ∀ (i : Nat) (h : i < nsym.toNat), horner t (t.expAt i (by omega)) (generatorOf t nsym) = 0x00#8

/-- RSENC (43_rs_ops.md R131): the message followed by the remainder of the padded message; the length test comes first. -/
def Obligations.RsencAppendsTheParity : Prop :=
  ∀ (nsym : Byte) (message : List Byte) (s : State), WithinSeqMax s message.length →
    (s.ready = false → Answers (.rsenc nsym message) s (failure .tablesNotReady)) ∧
    (s.ready = true → 255 < message.length + nsym.toNat → Answers (.rsenc nsym message) s (failure .lengthExceeded)) ∧
    (s.ready = true → message.length + nsym.toNat ≤ 255 → WithinSeqMax s (message.length + nsym.toNat) →
      Answers (.rsenc nsym message) s (okBytes (message ++ parityLoop s.tables message nsym.toNat)))

/-- 43_rs_ops.md R132: every codeword has length L + N, begins with the message, and has an all-zero remainder by the
generator; beyond 255 the call fails. -/
def Obligations.CodewordsAreSystematicMultiplesOfTheGenerator : Prop :=
  ∀ (t : Tables) (message : List Byte) (nsym : Byte),
    (message.length + nsym.toNat ≤ 255 → ∃ codeword, rsEncode t message nsym = .ok codeword ∧
      codeword.length = message.length + nsym.toNat ∧ codeword.take message.length = message ∧
      (polyDivMod t codeword (generatorOf t nsym)).2 = zeros nsym.toNat) ∧
    (255 < message.length + nsym.toNat → rsEncode t message nsym = .error .lengthExceeded)

/-! ### Bit-string operations (44_bitstring_ops.md) -/

/-- BSENC (44_bitstring_ops.md R140): length test, then characters, then mode, count and characters, most significant
bit first; served whatever READY is. -/
def Obligations.BsencBuildsTheBitString : Prop :=
  ∀ (text : List CodePoint) (s : State), WithinSeqMax s text.length →
    (255 < text.length → Answers (.bsenc text) s (failure .lengthExceeded)) ∧
    (text.length ≤ 255 → (∃ c ∈ text, 255 < c.toNat) → Answers (.bsenc text) s (failure .unsupportedCharacter)) ∧
    (text.length ≤ 255 → (∀ c ∈ text, c.toNat ≤ 255) → WithinSeqMax s (12 + 8 * text.length) →
      Answers (.bsenc text) s (okBits ([0, 1, 0, 0]
        ++ ((List.range 8).map fun k => BitVec.ofBool (text.length.testBit (7 - k)))
        ++ text.flatMap fun c => (List.range 8).map fun k => BitVec.ofBool (c.getLsbD (7 - k)))))

/-- A BitString determines its text, and has 12 + 8n bits (44_bitstring_ops.md R140). -/
def Obligations.BitStringsDetermineTheirText : Prop :=
  ∀ (text text' : List CodePoint) (bits : List Bit), dataEncode text = .ok bits →
    bits.length = 12 + 8 * text.length ∧ (dataEncode text' = .ok bits → text' = text)

/-- BPACK (44_bitstring_ops.md R141): (t + 7) div 8 bytes, byte k the number of group k completed as PACK_TAIL says;
served whatever READY is. -/
def Obligations.BpackPacksEachGroup : Prop :=
  ∀ (bits : List Bit) (s : State), WithinSeqMax s bits.length →
    Answers (.bpack bits) s (okBytes ((List.range ((bits.length + 7) / 8)).map fun k =>
      BitVec.ofNat 8 (groupNumber s.params.packTail bits k)))

/-- Where the bits of a packed string stand (44_bitstring_ops.md R141 (c)): in a whole group, for either PACK_TAIL, bit k
is bit 7 - (k mod 8) of byte k div 8. In a last group of u < 8 bits the same holds with ZERO_PAD_RIGHT, and the unused low
bits are 0; with RIGHT_ALIGN the group is the value of the last byte, its first bit the most significant of u bits, and
the 8 - u high bits are 0. -/
def Obligations.PackedBitsKeepTheirPlaces : Prop :=
  ∀ bits : List Bit,
    (∀ (tail : PackTail) (k : Nat), k < 8 * (bits.length / 8) →
      ((bytePack tail bits).getD (k / 8) 0#8).getLsbD (7 - k % 8) = (bits.getD k 0#1).getLsbD 0) ∧
    (∀ k, k < bits.length → ((bytePack .zeroPadRight bits).getD (k / 8) 0#8).getLsbD (7 - k % 8)
      = (bits.getD k 0#1).getLsbD 0) ∧
    (∀ k, bits.length ≤ k → k < 8 * ((bits.length + 7) / 8) →
      ((bytePack .zeroPadRight bits).getD (k / 8) 0#8).getLsbD (7 - k % 8) = false) ∧
    (bits.length % 8 ≠ 0 → ((bytePack .rightAlign bits).getLast?.map BitVec.toNat)
      = some ((List.range (bits.length % 8)).map fun j =>
          (bits.getD (8 * (bits.length / 8) + j) 0#1).toNat * 2 ^ (bits.length % 8 - 1 - j)).sum) ∧
    (∀ k, 8 * (bits.length / 8) ≤ k → k < bits.length →
      ((bytePack .rightAlign bits).getD (k / 8) 0#8).getLsbD (bits.length - 1 - k) = (bits.getD k 0#1).getLsbD 0) ∧
    (∀ j, bits.length % 8 ≠ 0 → bits.length % 8 ≤ j → j < 8 →
      ((bytePack .rightAlign bits).getD (bits.length / 8) 0#8).getLsbD j = false)

/-- Packing undoes unpacking, and unpacking undoes packing when the length is a multiple of 8, for either value of
PACK_TAIL (44_bitstring_ops.md R141 (b), R142 (b)). -/
def Obligations.PackingAndUnpackingAreInverse : Prop :=
  ∀ tail : PackTail,
    (∀ bytes : List Byte, bytePack tail (bitUnpack bytes) = bytes) ∧
    (∀ bits : List Bit, bits.length % 8 = 0 → bitUnpack (bytePack tail bits) = bits)

/-- BUNPACK (44_bitstring_ops.md R142): every byte gives exactly 8 bits, most significant first; served whatever READY
is. -/
def Obligations.BunpackUnpacksEachByte : Prop :=
  ∀ (bytes : List Byte) (s : State), WithinSeqMax s bytes.length → WithinSeqMax s (8 * bytes.length) →
    Answers (.bunpack bytes) s (okBits (bytes.flatMap fun v =>
      (List.range 8).map fun k => BitVec.ofBool (v.getLsbD (7 - k))))

/-! ### Matrix assembler (45_matrix_ops.md) -/

/-- MXASM (45_matrix_ops.md R156): the grids M and F and the scan as written; served whatever READY is. -/
def Obligations.MxasmAssemblesTheMatrixOfThePseudocode : Prop :=
  ∀ (version : Byte) (bits : List Bit) (s : State), WithinSeqMax s bits.length →
    (version = 0#8 → Answers (.mxasm version bits) s (failure .badVersion)) ∧
    (1 < version.toNat → alignmentFits s.params version.toNat = false →
      Answers (.mxasm version bits) s (failure .badAlignmentConfig)) ∧
    (Admitted s.params version.toNat → WithinSeqMax s ((4 * version.toNat + 17) * (4 * version.toNat + 17)) →
      Answers (.mxasm version bits) s (okBits (createMatrixLoops s.params version.toNat bits)))

/-- 45_matrix_ops.md R157, with the size of R150 and the finder bitmap of R151 written out: size × size bits; the fixed
cells do not depend on the bits; the free cells in row-major order are the bits cut or zero-extended to their number; and
the source's scenario, for the finders at every version and for version 1. -/
def Obligations.MatrixKeepsItsPatternsAndPlacesTheBits : Prop :=
  ∀ (p : Params) (version size : Nat) (bits : List Bit), Admitted p version → size = 4 * version + 17 →
    (createMatrix p version bits).length = size * size ∧
    (∀ (bits' : List Bit) (r c : Nat), r < size → c < size → IsFixed p version r c = true →
      (createMatrix p version bits).getD (r * size + c) 0#1 = (createMatrix p version bits').getD (r * size + c) 0#1) ∧
    ((freeCells p version).map fun rc => (createMatrix p version bits).getD (rc.1 * size + rc.2) 0#1) =
      bits.take (freeCells p version).length ++ List.replicate ((freeCells p version).length - bits.length) 0#1 ∧
    (∀ i j, i < 7 → j < 7 →
      (∀ r0 c0, (r0, c0) ∈ [(0, 0), (0, size - 7), (size - 7, 0)] →
        (createMatrix p version bits).getD ((r0 + i) * size + (c0 + j)) 0#1 =
          if max (max (i - 3) (3 - i)) (max (j - 3) (3 - j)) = 2 then 0#1 else 1#1)) ∧
    7 ≤ size - 7 ∧
    (version = 1 → size = 21 ∧ ∀ p' : Params, createMatrix p' version bits = createMatrix p version bits)

/-- 45_matrix_ops.md R156 (d) for the alignment bitmap, with the size of R150 and the bitmap of R152 written out: above
version 1, whatever the bits, the 5×5 block at (ALIGN_R0, ALIGN_C0) is the alignment bitmap. -/
def Obligations.AlignmentBlockStandsWhateverTheBits : Prop :=
  ∀ (p : Params) (version size : Nat) (bits : List Bit), Admitted p version → 1 < version → size = 4 * version + 17 →
    ∀ i j, i < 5 → j < 5 →
      (createMatrix p version bits).getD ((p.alignR0 + i) * size + (p.alignC0 + j)) 0#1 =
        if max (max (i - 2) (2 - i)) (max (j - 2) (2 - j)) = 1 then 0#1 else 1#1

/-- The number of free cells: size² - 147 for version 1, size² - 172 above it (45_matrix_ops.md R153). -/
def Obligations.FreeCellsAreCounted : Prop :=
  ∀ (p : Params) (version : Nat), Admitted p version →
    (freeCells p version).length + (if version = 1 then 147 else 172) = (4 * version + 17) * (4 * version + 17)

/-- Conditions (a) to (d) of 45_matrix_ops.md R154 hold exactly when the alignment footprint lies in the grid and meets
no finder footprint. -/
def Obligations.AlignmentIsAdmittedExactlyWhenItFits : Prop :=
  ∀ (p : Params) (version : Nat), 1 < version →
    (alignmentFits p version = true ↔
      ∀ i j, i < 5 → j < 5 →
        p.alignR0 + i < 4 * version + 17 ∧ p.alignC0 + j < 4 * version + 17 ∧
        ¬ (p.alignR0 + i ≤ 6 ∧ p.alignC0 + j ≤ 6) ∧
        ¬ (p.alignR0 + i ≤ 6 ∧ 4 * version + 17 - 7 ≤ p.alignC0 + j) ∧
        ¬ (4 * version + 17 - 7 ≤ p.alignR0 + i ∧ p.alignC0 + j ≤ 6))

/-! ### The pipeline (46_pipeline.md) -/

/-- QRENC (46_pipeline.md R170): the statuses in their order of precedence, and the matrix of the three stages. -/
def Obligations.QrencRunsTheThreeStages : Prop :=
  ∀ (version nsym : Byte) (text : List CodePoint) (s : State), WithinSeqMax s text.length →
    (s.ready = false → Answers (.qrenc version nsym text) s (failure .tablesNotReady)) ∧
    (s.ready = true → version = 0#8 → Answers (.qrenc version nsym text) s (failure .badVersion)) ∧
    (s.ready = true → 1 < version.toNat → alignmentFits s.params version.toNat = false →
      Answers (.qrenc version nsym text) s (failure .badAlignmentConfig)) ∧
    (s.ready = true → Admitted s.params version.toNat →
      (255 < text.length → Answers (.qrenc version nsym text) s (failure .lengthExceeded)) ∧
      (text.length ≤ 255 → (∃ c ∈ text, 255 < c.toNat) →
        Answers (.qrenc version nsym text) s (failure .unsupportedCharacter)) ∧
      (text.length ≤ 255 → (∀ c ∈ text, c.toNat ≤ 255) → 255 < text.length + 2 + nsym.toNat →
        Answers (.qrenc version nsym text) s (failure .lengthExceeded)) ∧
      ((∀ c ∈ text, c.toNat ≤ 255) → text.length + 2 + nsym.toNat ≤ 255 →
        WithinSeqMax s ((4 * version.toNat + 17) * (4 * version.toNat + 17)) →
        Answers (.qrenc version nsym text) s
          (okBits (pipelineMatrix s.tables s.params version.toNat nsym.toNat text))))

/-- QRENC gives exactly the result of BSENC, BPACK, RSENC, BUNPACK on the parity bytes and MXASM issued in turn, when
none of them fails (46_pipeline.md R170 (e)). -/
def Obligations.QrencEqualsTheStagesByHand : Prop :=
  ∀ (s : State) (version nsym : Byte) (text : List CodePoint) (bits parityBits matrix : List Bit)
    (message codeword : List Byte),
    Answers (.bsenc text) s (okBits bits) → Answers (.bpack bits) s (okBytes message) →
    Answers (.rsenc nsym message) s (okBytes codeword) →
    Answers (.bunpack (codeword.drop message.length)) s (okBits parityBits) →
    Answers (.mxasm version (bits ++ parityBits)) s (okBits matrix) →
    Answers (.qrenc version nsym text) s (okBits matrix)
end

