-- ==== Sys2Proof/Laws/State.lean ====
section
/-! SUPPORT. One lemma for each field and each update of the state, and the fields of the state after reset. -/

namespace Sys2Proof.Machine

@[simp] theorem State.respond_tables (s : State) (r : Response) : (s.respond r).tables = s.tables := rfl
@[simp] theorem State.respond_ready (s : State) (r : Response) : (s.respond r).ready = s.ready := rfl
@[simp] theorem State.respond_params (s : State) (r : Response) : (s.respond r).params = s.params := rfl
@[simp] theorem State.respond_requests (s : State) (r : Response) : (s.respond r).requests = s.requests := rfl
@[simp] theorem State.respond_responses (s : State) (r : Response) : (s.respond r).responses = s.responses ++ [r] := rfl

@[simp] theorem State.raise_tables (s : State) (e : Status) : (s.raise e).tables = s.tables := rfl
@[simp] theorem State.raise_ready (s : State) (e : Status) : (s.raise e).ready = s.ready := rfl
@[simp] theorem State.raise_params (s : State) (e : Status) : (s.raise e).params = s.params := rfl
@[simp] theorem State.raise_requests (s : State) (e : Status) : (s.raise e).requests = s.requests := rfl
@[simp] theorem State.raise_responses (s : State) (e : Status) : (s.raise e).responses = s.responses ++ [⟨e, [], []⟩] := rfl

@[simp] theorem State.rejectIllegal_tables (s : State) (e : Illegal) : (s.rejectIllegal e).tables = s.tables := rfl
@[simp] theorem State.rejectIllegal_ready (s : State) (e : Illegal) : (s.rejectIllegal e).ready = s.ready := rfl
@[simp] theorem State.rejectIllegal_params (s : State) (e : Illegal) : (s.rejectIllegal e).params = s.params := rfl
@[simp] theorem State.rejectIllegal_requests (s : State) (e : Illegal) : (s.rejectIllegal e).requests = s.requests := rfl
@[simp] theorem State.rejectIllegal_responses (s : State) (e : Illegal) : (s.rejectIllegal e).responses = s.responses ++ [⟨.illegalCommand, [], []⟩] := rfl

@[simp] theorem State.withFetchWord_tables (s : State) (nbits w : Nat) : (s.withFetchWord nbits w).tables = s.tables := rfl
@[simp] theorem State.withFetchWord_ready (s : State) (nbits w : Nat) : (s.withFetchWord nbits w).ready = s.ready := rfl
@[simp] theorem State.withFetchWord_params (s : State) (nbits w : Nat) : (s.withFetchWord nbits w).params = s.params := rfl
@[simp] theorem State.withFetchWord_requests (s : State) (nbits w : Nat) : (s.withFetchWord nbits w).requests = requestOfTableWord nbits w :: s.requests := rfl
@[simp] theorem State.withFetchWord_responses (s : State) (nbits w : Nat) : (s.withFetchWord nbits w).responses = s.responses := rfl

@[simp] theorem State.reset_tables : State.reset.tables = Tables.atReset := rfl
@[simp] theorem State.reset_ready : State.reset.ready = false := rfl
@[simp] theorem State.reset_params : State.reset.params = Config.params := rfl
@[simp] theorem State.reset_requests : State.reset.requests = [] := rfl
@[simp] theorem State.reset_responses : State.reset.responses = [] := rfl

@[simp] theorem Config.params_packTail : Config.params.packTail = .zeroPadRight := rfl
@[simp] theorem Config.params_seqMax : Config.params.seqMax = none := rfl

/-- Answering determines the response: two answers of one state are equal only for equal responses. -/
theorem State.respond_inj {s : State} {r r' : Response} (h : s.respond r = s.respond r') : r = r' := by
  have := congrArg State.responses h
  simpa using this

end Sys2Proof.Machine
end

