-- ==== Sys2Proof/Laws/Ops.lean ====
section
/-! SUPPORT. What each shared operation can do, said once: taking a request, replying, and the checks of
30_encoding.md R68. -/

namespace Sys2Proof.Machine

open Sys2Proof.Safety

/-- Replying always gives the old state with one response more. -/
theorem State.reply_eq (s : State) (ans : Answer) : s.reply ans = .next (s.respond (Answer.response ans)) := rfl

/-- A reply that is a failure raises it. -/
theorem State.reply_error_raises (s : State) (e : Status) : s.reply (.error e) = .next (s.raise e) := rfl

/-- Replying with a failure and replying with results. -/
@[simp] theorem State.reply_error (s : State) (e : Status) : s.reply (.error e) = .next (s.respond (failure e)) := rfl
@[simp] theorem State.reply_ok (s : State) (r : Seq × Seq) : s.reply (.ok r) = .next (s.respond ⟨.ok, r.1, r.2⟩) := rfl

theorem State.fetch_nil {s : State} (h : s.requests = []) : s.fetch = none := by simp [State.fetch, h]

theorem State.fetch_cons {s : State} {r : Request} {rest : List Request} (h : s.requests = r :: rest) :
    s.fetch = some (r, { s with requests := rest }) := by simp [State.fetch, h]

/-- A step with a request waiting, by the two outcomes of decoding it. -/
theorem step_cons {s : State} {r : Request} {rest : List Request} (h : s.requests = r :: rest) :
    step s = match decode r with
      | .error e => .next (({ s with requests := rest } : State).rejectIllegal e)
      | .ok i => exec i { s with requests := rest } := by
  cases hd : decode r <;> simp only [step, State.fetch_cons h, hd]

theorem Params.fits_iff (p : Params) (n : Nat) : Params.fits p n = true ↔ ∀ m, p.seqMax = some m → n ≤ m := by
  cases h : p.seqMax <;> simp [Params.fits, h]

theorem fits_of_within {s : State} {n : Nat} (h : WithinSeqMax s n) : Params.fits s.params n = true :=
  (Params.fits_iff _ _).2 h

theorem not_fits_of_beyond {s : State} {n : Nat} (h : BeyondSeqMax s n) : Params.fits s.params n = false := by
  obtain ⟨m, hm, hlt⟩ := h
  simp [Params.fits, hm, hlt]

theorem capPayload_of_fits {p : Params} {n : Nat} (h : Params.fits p n = true) (ans : Answer) :
    capPayload p n ans = ans := by simp [capPayload, h]

theorem capPayload_of_not_fits {p : Params} {n : Nat} (h : Params.fits p n = false) (ans : Answer) :
    capPayload p n ans = .error .capacityExceeded := by simp [capPayload, h]

@[simp] theorem needTables_false (ans : Answer) : needTables false ans = .error .tablesNotReady := rfl
@[simp] theorem needTables_true (ans : Answer) : needTables true ans = ans := rfl

@[simp] theorem capResult_error (p : Params) (e : Status) : capResult p (.error e) = .error e := rfl

theorem capResult_of_fits {p : Params} {r0 r1 : Seq} (h0 : Params.fits p r0.length = true)
    (h1 : Params.fits p r1.length = true) : capResult p (.ok (r0, r1)) = .ok (r0, r1) := by
  simp [capResult, h0, h1]

/-- A result with a sequence longer than SEQ_MAX is refused (30_encoding.md R68 (7)). -/
theorem capResult_of_beyond_r0 {s : State} {r0 r1 : Seq} (h : BeyondSeqMax s r0.length) :
    capResult s.params (.ok (r0, r1)) = .error .capacityExceeded := by
  simp [capResult, not_fits_of_beyond h]

theorem capResult_of_beyond_r1 {s : State} {r0 r1 : Seq} (h : BeyondSeqMax s r1.length) :
    capResult s.params (.ok (r0, r1)) = .error .capacityExceeded := by
  simp [capResult, not_fits_of_beyond h]

/-- The empty sequence is within every SEQ_MAX. -/
@[simp] theorem Params.fits_zero (p : Params) : Params.fits p 0 = true := by
  cases h : p.seqMax <;> simp [Params.fits, h]

/-- A one-byte result passes the check exactly when SEQ_MAX is not 0. -/
theorem capResult_oneByte_of_within {s : State} (h : WithinSeqMax s 1) (v : Byte) :
    capResult s.params (.ok (oneByte v)) = .ok (oneByte v) :=
  capResult_of_fits (fits_of_within h) (Params.fits_zero _)

theorem capResult_oneByte_of_beyond {s : State} (h : BeyondSeqMax s 1) (v : Byte) :
    capResult s.params (.ok (oneByte v)) = .error .capacityExceeded :=
  capResult_of_beyond_r0 h

/-- An answer that passes the result check is the one it was given, and within SEQ_MAX. -/
theorem capResult_ok_inv {p : Params} {ans : Answer} {r : Seq × Seq} (h : capResult p ans = .ok r) :
    ans = .ok r ∧ Params.fits p r.1.length = true ∧ Params.fits p r.2.length = true := by
  cases ans with
  | error e => simp at h
  | ok r' =>
    obtain ⟨r0, r1⟩ := r'
    simp only [capResult] at h
    split at h
    · rename_i hfit
      simp only [Bool.and_eq_true] at hfit
      cases h
      exact ⟨rfl, hfit.1, hfit.2⟩
    · simp at h

@[simp] theorem byteSeq_length (l : List Byte) : (byteSeq l).length = l.length := by simp [byteSeq]
@[simp] theorem bitSeq_length (l : List Bit) : (bitSeq l).length = l.length := by simp [bitSeq]

/-- Zero-extension loses nothing: a payload read back at its element type. -/
@[simp] theorem readBytes_byteSeq (l : List Byte) : readBytes (byteSeq l) = l := by
  simp [readBytes, byteSeq, Function.comp_def]

@[simp] theorem readBits_bitSeq (l : List Bit) : readBits (bitSeq l) = l := by
  simp [readBits, bitSeq, Function.comp_def]

end Sys2Proof.Machine
end

