-- ==== Sys2Proof/Laws/Exec.lean ====
section
/-! SUPPORT. What exec can do, said once: INIT builds the tables, and every other operation replies with an answer that
is a function of the tables, READY and the parameters alone. -/

namespace Sys2Proof.Machine

open Sys2Proof.Safety

/-- The answer of each operation other than INIT; INIT's is the empty success. -/
def answerOf (i : Instr) (t : Tables) (ready : Bool) (p : Params) : Answer :=
  match i with
  | .init => .ok ([], [])
  | .expl idx => needTables ready (capResult p (explAnswer t idx))
  | .logl x => needTables ready (capResult p (loglAnswer t x))
  | .gfadd x y => capResult p (.ok (oneByte (gfAdd x y)))
  | .gfsub x y => capResult p (.ok (oneByte (gfSub x y)))
  | .gfmul x y => needTables ready (capResult p (.ok (oneByte (gfMul t x y))))
  | .gfdiv x y => needTables ready (capResult p ((gfDiv t x y).map oneByte))
  | .pmul a b => capPayload p a.length (capPayload p b.length (needTables ready (capResult p (pmulAnswer t a b))))
  | .pdivmod a b =>
    capPayload p a.length (capPayload p b.length (needTables ready (capResult p (pdivmodAnswer t a b))))
  | .genpoly n => needTables ready (capResult p (.ok (bytesResult (generatorOf t n))))
  | .rsenc n m => capPayload p m.length (needTables ready (capResult p ((rsEncode t m n).map bytesResult)))
  | .bsenc text => capPayload p text.length (capResult p ((dataEncode text).map bitsResult))
  | .bpack bits => capPayload p bits.length (capResult p (.ok (bytesResult (bytePack p.packTail bits))))
  | .bunpack bytes => capPayload p bytes.length (capResult p (.ok (bitsResult (bitUnpack bytes))))
  | .mxasm v bits => capPayload p bits.length (capResult p
      (checkVersion p v (.ok (bitsResult (createMatrix p v.toNat bits)))))
  | .qrenc v n text => capPayload p text.length (needTables ready (capResult p
      (checkVersion p v ((pipelineBits t p v n text).map bitsResult))))

/-- Every operation other than INIT replies with its answer and changes nothing else. -/
theorem exec_of_ne_init {i : Instr} (s : State) (h : i ≠ .init) :
    exec i s = s.reply (answerOf i s.tables s.ready s.params) := by
  cases i <;> first | exact absurd rfl h | rfl

/-- INIT builds the tables, sets READY and answers OK. -/
theorem exec_init (s : State) :
    exec .init s = .next (({ s with tables := Tables.afterInit, ready := true } : State).respond ⟨.ok, [], []⟩) := rfl

/-- What the block turns a request into, from a state without it: the one response to the request, and the tables and
READY it leaves. -/
theorem exec_eq (i : Instr) (s : State) :
    exec i s = .next (({ s with
        tables := if i = .init then Tables.afterInit else s.tables,
        ready := if i = .init then true else s.ready } : State).respond
      (Answer.response (answerOf i s.tables s.ready s.params))) := by
  by_cases h : i = .init
  · subst h; rfl
  · rw [exec_of_ne_init s h, State.reply_eq]
    simp only [h, if_false]

end Sys2Proof.Machine
end

