-- ==== Sys2Proof/Laws/Words.lean ====
section
/-! SUPPORT. The fields of a command word built by the encoder, and the row each format's word selects
(30_encoding.md R61 to R63). -/

namespace Sys2Proof

@[simp] theorem opcodeField_commandOf (op a b : Byte) : opcodeField (commandOf op a b) = op := by
  apply BitVec.eq_of_getLsbD_eq
  intro i hi
  interval_cases i <;> simp [opcodeField, commandOf]

@[simp] theorem fieldA_commandOf (op a b : Byte) : fieldA (commandOf op a b) = a := by
  apply BitVec.eq_of_getLsbD_eq
  intro i hi
  interval_cases i <;> simp [fieldA, commandOf]

@[simp] theorem fieldB_commandOf (op a b : Byte) : fieldB (commandOf op a b) = b := by
  apply BitVec.eq_of_getLsbD_eq
  intro i hi
  interval_cases i <;> simp [fieldB, commandOf]

@[simp] theorem zeroXY_commandOf (op a b : Byte) : zeroXY (commandOf op a b) = true := by
  rw [zeroXY, beq_iff_eq]
  apply BitVec.eq_of_getLsbD_eq
  intro i hi
  interval_cases i <;> simp [commandOf]

@[simp] theorem zeroX_commandOf (op a : Byte) : zeroX (commandOf op a 0#8) = true := by
  rw [zeroX, beq_iff_eq]
  apply BitVec.eq_of_getLsbD_eq
  intro i hi
  interval_cases i <;> simp [commandOf]

@[simp] theorem zeroZ_commandOf (op : Byte) : zeroZ (commandOf op 0#8 0#8) = true := by
  rw [zeroZ, beq_iff_eq]
  apply BitVec.eq_of_getLsbD_eq
  intro i hi
  interval_cases i <;> simp [commandOf]

@[simp] theorem opcodeField_idx (idx : BitVec 16) : opcodeField (0x02000000#32 ||| idx.setWidth 32) = 0x02#8 := by
  apply BitVec.eq_of_getLsbD_eq
  intro i hi
  interval_cases i <;> simp [opcodeField]

@[simp] theorem fieldIdx_idx (idx : BitVec 16) : fieldIdx (0x02000000#32 ||| idx.setWidth 32) = idx := by
  apply BitVec.eq_of_getLsbD_eq
  intro i hi
  interval_cases i <;> simp [fieldIdx]

@[simp] theorem zeroI_idx (idx : BitVec 16) : zeroI (0x02000000#32 ||| idx.setWidth 32) = true := by
  rw [zeroI, beq_iff_eq]
  apply BitVec.eq_of_getLsbD_eq
  intro i hi
  interval_cases i <;> simp

/-- A word of a format selects the row of its opcode, whatever its operands. -/
theorem selects_formatZ (op : Byte) : commandOf op 0#8 0#8 &&& 0xFFFFFFFF#32 = commandOf op 0#8 0#8 := by
  exact BitVec.and_allOnes

theorem selects_formatX (op a : Byte) : commandOf op a 0#8 &&& 0xFF00FFFF#32 = commandOf op 0#8 0#8 := by
  apply BitVec.eq_of_getLsbD_eq
  intro i hi
  interval_cases i <;> simp [commandOf]

theorem selects_formatXY (op a b : Byte) : commandOf op a b &&& 0xFF0000FF#32 = commandOf op 0#8 0#8 := by
  apply BitVec.eq_of_getLsbD_eq
  intro i hi
  interval_cases i <;> simp [commandOf]

theorem selects_formatI (idx : BitVec 16) : (0x02000000#32 ||| idx.setWidth 32) &&& 0xFFFF0000#32 = 0x02000000#32 := by
  apply BitVec.eq_of_getLsbD_eq
  intro i hi
  interval_cases i <;> simp

end Sys2Proof
end

