-- ==== Sys2Proof/Laws/PerInstr.lean ====
section
/-! SUPPORT. The family EncodesWellFormed: every operation's request is well-formed (30_encoding.md R64, R65). -/

namespace Sys2Proof.Laws

open Sys2Proof.Machine

/-- Zero-extended bytes are bytes. -/
theorem byteSeq_holds (l : List Byte) : (byteSeq l).all ElemKind.byte.holds = true := by
  simp only [byteSeq, List.all_map, List.all_eq_true, Function.comp_apply]
  intro v _
  refine decide_eq_true ?_
  have := v.isLt
  simp only [BitVec.toNat_setWidth, ElemKind.width]
  omega

/-- Zero-extended bits are bits. -/
theorem bitSeq_holds (l : List Bit) : (bitSeq l).all ElemKind.bit.holds = true := by
  simp only [bitSeq, List.all_map, List.all_eq_true, Function.comp_apply]
  intro v _
  refine decide_eq_true ?_
  have := v.isLt
  simp only [BitVec.toNat_setWidth, ElemKind.width]
  omega

/-- Every element is a code point. -/
theorem codePoints_hold (l : Seq) : l.all ElemKind.codePoint.holds = true := by
  simp only [List.all_eq_true]
  intro v _
  exact decide_eq_true v.isLt

/-- A request is well-formed if one row admits it. -/
theorem wellFormed_of_row {r : Request} {row : OpRow} (hmem : row ∈ opRows) (hsel : row.selects r.cmd = true)
    (ha : payloadWellFormed row.payloadA r.a = true) (hb : payloadWellFormed row.payloadB r.b = true) :
    r.wellFormed = true :=
  List.any_eq_true.2 ⟨row, hmem, by simp [OpRow.admits, hsel, ha, hb]⟩

namespace EncodesWellFormed

/-- The request that asks for the operation is one a host can send. -/
def Statement (i : Instr) : Prop := (encode i).wellFormed = true

theorem init : Statement .init :=
  wellFormed_of_row (row := opRows[0]) (by decide) (beq_iff_eq.2 (selects_formatZ 0x01#8)) rfl rfl

theorem expl (idx : BitVec 16) : Statement (.expl idx) :=
  wellFormed_of_row (row := opRows[1]) (by decide) (beq_iff_eq.2 (selects_formatI idx)) rfl rfl

theorem logl (x : Byte) : Statement (.logl x) :=
  wellFormed_of_row (row := opRows[2]) (by decide) (beq_iff_eq.2 (selects_formatX 0x03#8 x)) rfl rfl

theorem gfadd (x y : Byte) : Statement (.gfadd x y) :=
  wellFormed_of_row (row := opRows[3]) (by decide) (beq_iff_eq.2 (selects_formatXY 0x10#8 x y)) rfl rfl

theorem gfsub (x y : Byte) : Statement (.gfsub x y) :=
  wellFormed_of_row (row := opRows[4]) (by decide) (beq_iff_eq.2 (selects_formatXY 0x11#8 x y)) rfl rfl

theorem gfmul (x y : Byte) : Statement (.gfmul x y) :=
  wellFormed_of_row (row := opRows[5]) (by decide) (beq_iff_eq.2 (selects_formatXY 0x12#8 x y)) rfl rfl

theorem gfdiv (x y : Byte) : Statement (.gfdiv x y) :=
  wellFormed_of_row (row := opRows[6]) (by decide) (beq_iff_eq.2 (selects_formatXY 0x13#8 x y)) rfl rfl

theorem pmul (p q : List Byte) : Statement (.pmul p q) :=
  wellFormed_of_row (row := opRows[7]) (by decide) (beq_iff_eq.2 (selects_formatZ 0x20#8)) (byteSeq_holds p) (byteSeq_holds q)

theorem pdivmod (p q : List Byte) : Statement (.pdivmod p q) :=
  wellFormed_of_row (row := opRows[8]) (by decide) (beq_iff_eq.2 (selects_formatZ 0x21#8)) (byteSeq_holds p) (byteSeq_holds q)

theorem genpoly (n : Byte) : Statement (.genpoly n) :=
  wellFormed_of_row (row := opRows[9]) (by decide) (beq_iff_eq.2 (selects_formatX 0x30#8 n)) rfl rfl

theorem rsenc (n : Byte) (message : List Byte) : Statement (.rsenc n message) :=
  wellFormed_of_row (row := opRows[10]) (by decide) (beq_iff_eq.2 (selects_formatX 0x31#8 n)) (byteSeq_holds message) rfl

theorem bsenc (text : List CodePoint) : Statement (.bsenc text) :=
  wellFormed_of_row (row := opRows[11]) (by decide) (beq_iff_eq.2 (selects_formatZ 0x40#8)) (codePoints_hold text) rfl

theorem bpack (bits : List Bit) : Statement (.bpack bits) :=
  wellFormed_of_row (row := opRows[12]) (by decide) (beq_iff_eq.2 (selects_formatZ 0x41#8)) (bitSeq_holds bits) rfl

theorem bunpack (bytes : List Byte) : Statement (.bunpack bytes) :=
  wellFormed_of_row (row := opRows[13]) (by decide) (beq_iff_eq.2 (selects_formatZ 0x42#8)) (byteSeq_holds bytes) rfl

theorem mxasm (version : Byte) (bits : List Bit) : Statement (.mxasm version bits) :=
  wellFormed_of_row (row := opRows[14]) (by decide) (beq_iff_eq.2 (selects_formatX 0x50#8 version)) (bitSeq_holds bits) rfl

theorem qrenc (version nsym : Byte) (text : List CodePoint) : Statement (.qrenc version nsym text) :=
  wellFormed_of_row (row := opRows[15]) (by decide) (beq_iff_eq.2 (selects_formatXY 0x60#8 version nsym)) (codePoints_hold text) rfl

end EncodesWellFormed

end Sys2Proof.Laws
end

