-- ==== Sys2Proof/Laws/Sequences.lean ====
section
/-! SUPPORT. Lengths and small laws of the sequence operations. -/

namespace Sys2Proof.Machine

open Sys2Proof.Safety

@[simp] theorem zeros_length (n : Nat) : (zeros n).length = n := by simp [zeros]

@[simp] theorem xorFront_nil (w : List Byte) : xorFront [] w = w := by simp [xorFront]

@[simp] theorem xorFront_cons (a b : Byte) (as bs : List Byte) :
    xorFront (a :: as) (b :: bs) = (a ^^^ b) :: xorFront as bs := by simp [xorFront]

/-- Xoring onto the front keeps the length of what is xored onto. -/
theorem xorFront_length : ∀ (a w : List Byte), (xorFront a w).length = w.length := by
  intro a
  induction a with
  | nil => simp
  | cons x a ih =>
    intro w
    cases w with
    | nil => simp [xorFront]
    | cons y w => simp [ih]

/-- The product of a non-empty and any polynomial has len(p) + len(q) - 1 coefficients (42_poly_ops.md R120). -/
theorem polyMul_cons_length (t : Tables) (c : Byte) (p q : List Byte) :
    (polyMul t (c :: p) q).length = (polyMul t p q).length + 1 := by
  simp [polyMul, xorFront_length]

@[simp] theorem bits8_length (v : Byte) : (bits8 v).length = 8 := by simp [bits8]

@[simp] theorem bitUnpack_length (bytes : List Byte) : (bitUnpack bytes).length = 8 * bytes.length := by
  induction bytes with
  | nil => rfl
  | cons b bytes ih =>
    simp only [bitUnpack, List.flatMap_cons, List.length_append, bits8_length, List.length_cons] at ih ⊢
    omega

@[simp] theorem bytePack_length (tail : PackTail) (bits : List Bit) :
    (bytePack tail bits).length = (bits.length + 7) / 8 := by simp [bytePack]

@[simp] theorem rowMajor_length (size : Nat) : (rowMajor size).length = size * size := by
  simp [rowMajor, List.length_flatMap]

/-- The bitmaps are those of 45_matrix_ops.md R151 and R152, by the distance from the centre. -/
theorem finder_eq : ∀ i < 7, ∀ j < 7, (finder.getD i []).getD j 0#1 = finderBit i j := by decide

theorem alignment_eq : ∀ i < 5, ∀ j < 5, (alignment.getD i []).getD j 0#1 = alignBit i j := by decide

theorem matrixSize_eq (version : Nat) : matrixSize version = 4 * version + 17 := rfl

/-- The scan writes one bit for each cell (45_matrix_ops.md R155). -/
theorem placeBits_length (pattern : Nat → Nat → Option Bit) :
    ∀ (cells : List (Nat × Nat)) (bits : List Bit), (placeBits pattern cells bits).length = cells.length := by
  intro cells
  induction cells with
  | nil => intro bits; rfl
  | cons rc cells ih =>
    intro bits
    obtain ⟨r, c⟩ := rc
    cases h : pattern r c with
    | some v => simp [placeBits, h, ih]
    | none => cases bits <;> simp [placeBits, h, ih]

end Sys2Proof.Machine
end

