-- ==== Sys2Proof/Laws/Tables.lean ====
section
/-! SUPPORT. The tables that INIT leaves hold the values of 10_state.md R21 and R22. The finite facts over the 510 and
255 entries are evaluated by the kernel, each once. -/

namespace Sys2Proof.Machine

open Sys2Proof.Safety

theorem generatorSeq_getElem (n : Nat) (x : Byte) (i : Nat) (h : i < (generatorSeq n x).length) :
    (generatorSeq n x)[i] = gfStep^[i] x := by
  induction n generalizing x i with
  | zero => simp [generatorSeq] at h
  | succ n ih =>
    cases i with
    | zero => rfl
    | succ i => simpa [generatorSeq] using ih (gfStep x) i (by simpa [generatorSeq] using h)

/-- The i-th term of the generator sequence is i steps from 1 (40_table_ops.md R100). -/
theorem generatorTerm_eq (i : Nat) : generatorTerm i = gfStep^[i] 0x01#8 := by
  induction i with
  | zero => rfl
  | succ i ih => rw [generatorTerm, ih, Function.iterate_succ_apply']

/-- The sequence has period 255 (40_table_ops.md R100 (a)). -/
theorem gfStep_period : gfStep^[255] 0x01#8 = 0x01#8 := by decide +kernel

theorem generatorTerm_add_period (i : Nat) : generatorTerm (i + 255) = generatorTerm i := by
  rw [generatorTerm_eq, Function.iterate_add_apply, gfStep_period, ← generatorTerm_eq]

/-- EXP after INIT is the generator sequence over both periods (10_state.md R21). -/
theorem afterInit_expAt (i : Nat) (h : i < 510) : Tables.afterInit.expAt i h = generatorTerm i := by
  have hlen : (generatorSeq 255 0x01#8).length = 255 := generatorSeq_length _ _
  change (generatorSeq 255 0x01#8 ++ generatorSeq 255 0x01#8)[i]'(by simp [hlen]; omega) = _
  by_cases hi : i < 255
  · rw [List.getElem_append_left (by omega), generatorSeq_getElem, generatorTerm_eq]
  · rw [List.getElem_append_right (by omega), generatorSeq_getElem, ← generatorTerm_eq, hlen]
    conv => rhs; rw [← Nat.sub_add_cancel (Nat.le_of_not_lt hi)]
    rw [generatorTerm_add_period]

/-- Every nonzero byte stands in the first period, at the place LOG gives (40_table_ops.md R100 (a)). -/
theorem generatorIndex_spec : ∀ x : Byte, x ≠ 0#8 →
    (generatorIndex x).toNat < 255 ∧ (generatorSeq 255 0x01#8)[(generatorIndex x).toNat]? = some x := by
  decide +kernel

theorem afterInit_logAt (x : Byte) (h : x ≠ 0#8) : Tables.afterInit.logAt x h = generatorIndex x := by
  have hx : 0 < x.toNat := by
    rcases Nat.eq_zero_or_pos x.toNat with h0 | h0
    · exact absurd (BitVec.eq_of_toNat_eq (by simpa using h0)) h
    · exact h0
  change ((List.range 255).map fun k => generatorIndex (BitVec.ofNat 8 (k + 1)))[x.toNat - 1]'(by simp; omega) = _
  simp [Nat.sub_add_cancel hx]

/-- The tables after INIT hold the values of 10_state.md R21 and R22. -/
theorem built_afterInit : Built Tables.afterInit where
  exp_eq := afterInit_expAt
  log_lt x h := by rw [afterInit_logAt]; exact (generatorIndex_spec x h).1
  exp_log x h := by
    obtain ⟨hlt, hget⟩ := generatorIndex_spec x h
    have hlog := congrArg BitVec.toNat (afterInit_logAt x h)
    rw [afterInit_expAt, hlog, generatorTerm_eq]
    rw [List.getElem?_eq_some_iff] at hget
    obtain ⟨hl, hget⟩ := hget
    exact (generatorSeq_getElem 255 0x01#8 _ hl).symm.trans hget

end Sys2Proof.Machine
end

