-- ==== Sys2Proof/Tests/Slice0.lean ====
section
/-! SUPPORT. Tests with values from spec/95_test_vectors.md, spec/40_table_ops.md R103 and the examples of the operation
rules, and for every statement with hypotheses a state and operands that meet them. -/

namespace Sys2Proof.Tests

open Sys2Proof.Machine Sys2Proof.Safety

/-- The illustration of 95_test_vectors.md: alignment at (16,16), the default PACK_TAIL, SEQ_MAX unbounded. -/
def params16 : Params := ⟨16, 16, .zeroPadRight, none⟩

/-- Not ready: reset with the illustration's parameters. -/
def cold : State := { State.reset with params := params16 }

/-- Ready: INIT has run. -/
def ready : State := { cold with tables := Tables.afterInit, ready := true }

/-- Ready, with SEQ_MAX = 3. -/
def bounded : State := { ready with params := { params16 with seqMax := some 3 } }

/-- Ready, with SEQ_MAX = 0. -/
def closed : State := { ready with params := { params16 with seqMax := some 0 } }

/-- The status byte and results of an operation's response. -/
def answer (i : Instr) (s : State) : Option (Byte × Seq × Seq) :=
  match exec i s with
  | .next t => t.responses.getLast?.map fun r => (r.status.code, r.r0, r.r1)
  | .fault _ => none
  | .refused _ => none

/-- The same through a step on a request. -/
def stepAnswer (r : Request) (s : State) : Option (Byte × Seq × Seq) :=
  (responseTo s r).map fun r => (r.status.code, r.r0, r.r1)

/-! ### Well-formedness: an ill-formed request for each check -/

theorem test_wellFormed_accepts : (⟨0x20000000#32, [1, 2], [0xFF]⟩ : Request).wellFormed = true := by decide
theorem test_wellFormed_refuses_unassigned : (⟨0x04000000#32, [], []⟩ : Request).wellFormed = false := by decide
theorem test_wellFormed_refuses_reserved : (⟨0x1253CA01#32, [], []⟩ : Request).wellFormed = false := by decide
theorem test_wellFormed_refuses_unused_a : (⟨0x01000000#32, [0], []⟩ : Request).wellFormed = false := by decide
theorem test_wellFormed_refuses_unused_b : (⟨0x31020000#32, [1], [2]⟩ : Request).wellFormed = false := by decide
theorem test_wellFormed_refuses_wide_byte : (⟨0x20000000#32, [0x100], [1]⟩ : Request).wellFormed = false := by decide
theorem test_wellFormed_refuses_wide_bit : (⟨0x41000000#32, [2], []⟩ : Request).wellFormed = false := by decide

/-! ### Decoding: words written out bit by bit from 30_encoding.md R61 and opcode_table.json -/

theorem test_decode_init : decode ⟨0b00000001000000000000000000000000#32, [], []⟩ = .ok .init := by decide
theorem test_decode_expl : decode ⟨0b00000010000000000000000111111101#32, [], []⟩ = .ok (.expl 509#16) := by decide
theorem test_decode_logl : decode ⟨0b00000011000111010000000000000000#32, [], []⟩ = .ok (.logl 0x1D#8) := by decide
theorem test_decode_gfadd :
    decode ⟨0b00010000010100111100101000000000#32, [], []⟩ = .ok (.gfadd 0x53#8 0xCA#8) := by decide
theorem test_decode_gfsub :
    decode ⟨0b00010001010100111100101000000000#32, [], []⟩ = .ok (.gfsub 0x53#8 0xCA#8) := by decide
theorem test_decode_gfmul :
    decode ⟨0b00010010010100111100101000000000#32, [], []⟩ = .ok (.gfmul 0x53#8 0xCA#8) := by decide
theorem test_decode_gfdiv :
    decode ⟨0b00010011000111010000001000000000#32, [], []⟩ = .ok (.gfdiv 0x1D#8 0x02#8) := by decide
theorem test_decode_pmul : decode ⟨0b00100000000000000000000000000000#32, [1], [2]⟩ = .ok (.pmul [1] [2]) := by decide
theorem test_decode_pdivmod :
    decode ⟨0b00100001000000000000000000000000#32, [1], [2]⟩ = .ok (.pdivmod [1] [2]) := by decide
theorem test_decode_genpoly : decode ⟨0b00110000000001110000000000000000#32, [], []⟩ = .ok (.genpoly 7#8) := by decide
theorem test_decode_rsenc : decode ⟨0b00110001000000100000000000000000#32, [5], []⟩ = .ok (.rsenc 2#8 [5]) := by decide
theorem test_decode_bsenc :
    decode ⟨0b01000000000000000000000000000000#32, [0x20AC], []⟩ = .ok (.bsenc [0x20AC]) := by decide
theorem test_decode_bpack : decode ⟨0b01000001000000000000000000000000#32, [1, 0], []⟩ = .ok (.bpack [1, 0]) := by decide
theorem test_decode_bunpack : decode ⟨0b01000010000000000000000000000000#32, [9], []⟩ = .ok (.bunpack [9]) := by decide
theorem test_decode_mxasm :
    decode ⟨0b01010000000000010000000000000000#32, [1], []⟩ = .ok (.mxasm 1#8 [1]) := by decide
theorem test_decode_qrenc :
    decode ⟨0b01100000000000010000011100000000#32, [0x41], []⟩ = .ok (.qrenc 1#8 7#8 [0x41]) := by decide

/-- V80 to V8B of 95_test_vectors.md: the words and requests that are illegal, and why. -/
theorem test_decode_illegal :
    decode ⟨0x00000000#32, [], []⟩ = .error .unassignedOpcode ∧
    decode ⟨0xFFFFFFFF#32, [], []⟩ = .error .unassignedOpcode ∧
    decode ⟨0x14000000#32, [], []⟩ = .error .unassignedOpcode ∧
    decode ⟨0x01000001#32, [], []⟩ = .error .nonzeroReserved ∧
    decode ⟨0x02010008#32, [], []⟩ = .error .nonzeroReserved ∧
    decode ⟨0x031D0001#32, [], []⟩ = .error .nonzeroReserved ∧
    decode ⟨0x1253CA01#32, [], []⟩ = .error .nonzeroReserved ∧
    decode ⟨0x30020100#32, [], []⟩ = .error .nonzeroReserved ∧
    decode ⟨0x01000000#32, [0], []⟩ = .error .unusedPayload ∧
    decode ⟨0x31020000#32, [1], [2]⟩ = .error .unusedPayload ∧
    decode ⟨0x1253CA00#32, [0], []⟩ = .error .unusedPayload := by decide

/-- No two rows of the opcode map are selected by one word: two patterns differ in a bit that both masks fix. -/
theorem test_rows_do_not_overlap :
    opRows.Pairwise (fun a b => (a.mask &&& b.mask &&& (a.pattern ^^^ b.pattern)) ≠ 0#32) := by decide

/-! ### The step -/

/-- From reset, the next step serves a placed word, and the queue is empty again. -/
theorem test_step_serves_fetch_word :
    (match step (State.reset.withFetchWord 32 0x10020300) with
      | .next t => t.requests == [] && t.responses == [⟨.ok, [0x01], []⟩] && !t.ready
      | .fault _ => false
      | .refused _ => false) = true := by decide
theorem test_step_init_from_reset :
    (match step (State.reset.withFetchWord 32 0x01000000) with
      | .next t => t.ready && t.responses == [⟨.ok, [], []⟩]
      | .fault _ => false
      | .refused _ => false) = true := by decide
theorem test_step_illegal_from_reset : stepAnswer ⟨0x01000001#32, [], []⟩ cold = some (0x80, [], []) := by decide
/-- The codes of 30_encoding.md R67, in the table's order. -/
theorem test_status_codes :
    [Status.ok, .divisionByZero, .lengthExceeded, .unsupportedCharacter, .illegalCommand, .tablesNotReady,
      .indexOutOfRange, .logOfZero, .emptyPolynomial, .nonMonicDivisor, .dividendTooShort, .badVersion,
      .badAlignmentConfig, .capacityExceeded].map Status.code
    = [0x00, 0x01, 0x02, 0x03, 0x80, 0x81, 0x82, 0x83, 0x84, 0x85, 0x86, 0x87, 0x88, 0x89] := by decide
/-- A step answers a next state even where the response rests on the free alignment position. -/
theorem test_step_completes_from_reset :
    (match step (State.reset.withFetchWord 32 0x50020000) with
      | .next t => t.requests == []
      | .fault _ => false
      | .refused _ => false) = true := by decide

/-! ### Tables: the listing of 40_table_ops.md R103 -/

/-- EXP[0..255]. -/
def expListing : List Byte :=
  [0x01, 0x02, 0x04, 0x08, 0x10, 0x20, 0x40, 0x80, 0x1D, 0x3A, 0x74, 0xE8, 0xCD, 0x87, 0x13, 0x26] ++
  [0x4C, 0x98, 0x2D, 0x5A, 0xB4, 0x75, 0xEA, 0xC9, 0x8F, 0x03, 0x06, 0x0C, 0x18, 0x30, 0x60, 0xC0] ++
  [0x9D, 0x27, 0x4E, 0x9C, 0x25, 0x4A, 0x94, 0x35, 0x6A, 0xD4, 0xB5, 0x77, 0xEE, 0xC1, 0x9F, 0x23] ++
  [0x46, 0x8C, 0x05, 0x0A, 0x14, 0x28, 0x50, 0xA0, 0x5D, 0xBA, 0x69, 0xD2, 0xB9, 0x6F, 0xDE, 0xA1] ++
  [0x5F, 0xBE, 0x61, 0xC2, 0x99, 0x2F, 0x5E, 0xBC, 0x65, 0xCA, 0x89, 0x0F, 0x1E, 0x3C, 0x78, 0xF0] ++
  [0xFD, 0xE7, 0xD3, 0xBB, 0x6B, 0xD6, 0xB1, 0x7F, 0xFE, 0xE1, 0xDF, 0xA3, 0x5B, 0xB6, 0x71, 0xE2] ++
  [0xD9, 0xAF, 0x43, 0x86, 0x11, 0x22, 0x44, 0x88, 0x0D, 0x1A, 0x34, 0x68, 0xD0, 0xBD, 0x67, 0xCE] ++
  [0x81, 0x1F, 0x3E, 0x7C, 0xF8, 0xED, 0xC7, 0x93, 0x3B, 0x76, 0xEC, 0xC5, 0x97, 0x33, 0x66, 0xCC] ++
  [0x85, 0x17, 0x2E, 0x5C, 0xB8, 0x6D, 0xDA, 0xA9, 0x4F, 0x9E, 0x21, 0x42, 0x84, 0x15, 0x2A, 0x54] ++
  [0xA8, 0x4D, 0x9A, 0x29, 0x52, 0xA4, 0x55, 0xAA, 0x49, 0x92, 0x39, 0x72, 0xE4, 0xD5, 0xB7, 0x73] ++
  [0xE6, 0xD1, 0xBF, 0x63, 0xC6, 0x91, 0x3F, 0x7E, 0xFC, 0xE5, 0xD7, 0xB3, 0x7B, 0xF6, 0xF1, 0xFF] ++
  [0xE3, 0xDB, 0xAB, 0x4B, 0x96, 0x31, 0x62, 0xC4, 0x95, 0x37, 0x6E, 0xDC, 0xA5, 0x57, 0xAE, 0x41] ++
  [0x82, 0x19, 0x32, 0x64, 0xC8, 0x8D, 0x07, 0x0E, 0x1C, 0x38, 0x70, 0xE0, 0xDD, 0xA7, 0x53, 0xA6] ++
  [0x51, 0xA2, 0x59, 0xB2, 0x79, 0xF2, 0xF9, 0xEF, 0xC3, 0x9B, 0x2B, 0x56, 0xAC, 0x45, 0x8A, 0x09] ++
  [0x12, 0x24, 0x48, 0x90, 0x3D, 0x7A, 0xF4, 0xF5, 0xF7, 0xF3, 0xFB, 0xEB, 0xCB, 0x8B, 0x0B, 0x16] ++
  [0x2C, 0x58, 0xB0, 0x7D, 0xFA, 0xE9, 0xCF, 0x83, 0x1B, 0x36, 0x6C, 0xD8, 0xAD, 0x47, 0x8E, 0x01]

/-- LOG[1..255]. -/
def logListing : List Byte :=
  [0x00, 0x01, 0x19, 0x02, 0x32, 0x1A, 0xC6, 0x03, 0xDF, 0x33, 0xEE, 0x1B, 0x68, 0xC7, 0x4B] ++
  [0x04, 0x64, 0xE0, 0x0E, 0x34, 0x8D, 0xEF, 0x81, 0x1C, 0xC1, 0x69, 0xF8, 0xC8, 0x08, 0x4C, 0x71] ++
  [0x05, 0x8A, 0x65, 0x2F, 0xE1, 0x24, 0x0F, 0x21, 0x35, 0x93, 0x8E, 0xDA, 0xF0, 0x12, 0x82, 0x45] ++
  [0x1D, 0xB5, 0xC2, 0x7D, 0x6A, 0x27, 0xF9, 0xB9, 0xC9, 0x9A, 0x09, 0x78, 0x4D, 0xE4, 0x72, 0xA6] ++
  [0x06, 0xBF, 0x8B, 0x62, 0x66, 0xDD, 0x30, 0xFD, 0xE2, 0x98, 0x25, 0xB3, 0x10, 0x91, 0x22, 0x88] ++
  [0x36, 0xD0, 0x94, 0xCE, 0x8F, 0x96, 0xDB, 0xBD, 0xF1, 0xD2, 0x13, 0x5C, 0x83, 0x38, 0x46, 0x40] ++
  [0x1E, 0x42, 0xB6, 0xA3, 0xC3, 0x48, 0x7E, 0x6E, 0x6B, 0x3A, 0x28, 0x54, 0xFA, 0x85, 0xBA, 0x3D] ++
  [0xCA, 0x5E, 0x9B, 0x9F, 0x0A, 0x15, 0x79, 0x2B, 0x4E, 0xD4, 0xE5, 0xAC, 0x73, 0xF3, 0xA7, 0x57] ++
  [0x07, 0x70, 0xC0, 0xF7, 0x8C, 0x80, 0x63, 0x0D, 0x67, 0x4A, 0xDE, 0xED, 0x31, 0xC5, 0xFE, 0x18] ++
  [0xE3, 0xA5, 0x99, 0x77, 0x26, 0xB8, 0xB4, 0x7C, 0x11, 0x44, 0x92, 0xD9, 0x23, 0x20, 0x89, 0x2E] ++
  [0x37, 0x3F, 0xD1, 0x5B, 0x95, 0xBC, 0xCF, 0xCD, 0x90, 0x87, 0x97, 0xB2, 0xDC, 0xFC, 0xBE, 0x61] ++
  [0xF2, 0x56, 0xD3, 0xAB, 0x14, 0x2A, 0x5D, 0x9E, 0x84, 0x3C, 0x39, 0x53, 0x47, 0x6D, 0x41, 0xA2] ++
  [0x1F, 0x2D, 0x43, 0xD8, 0xB7, 0x7B, 0xA4, 0x76, 0xC4, 0x17, 0x49, 0xEC, 0x7F, 0x0C, 0x6F, 0xF6] ++
  [0x6C, 0xA1, 0x3B, 0x52, 0x29, 0x9D, 0x55, 0xAA, 0xFB, 0x60, 0x86, 0xB1, 0xBB, 0xCC, 0x3E, 0x5A] ++
  [0xCB, 0x59, 0x5F, 0xB0, 0x9C, 0xA9, 0xA0, 0x51, 0x0B, 0xF5, 0x16, 0xEB, 0x7A, 0x75, 0x2C, 0xD7] ++
  [0x4F, 0xAE, 0xD5, 0xE9, 0xE6, 0xE7, 0xAD, 0xE8, 0x74, 0xD6, 0xF4, 0xEA, 0xA8, 0x50, 0x58, 0xAF]

theorem test_exp_listing : Tables.afterInit.exp.toList = expListing ++ (expListing.drop 1).take 254 := by
  decide +kernel
theorem test_log_listing : Tables.afterInit.log.toList = logListing := by decide +kernel

/-! ### Operations: V01 to V7Q of 95_test_vectors.md -/

theorem test_expl_last_entry : answer (.expl 509#16) ready = some (0x00, [0x8E], []) := by decide +kernel
theorem test_expl_beyond : answer (.expl 510#16) ready = some (0x82, [], []) := by decide +kernel
theorem test_logl_255 : answer (.logl 0xFF#8) ready = some (0x00, [0xAF], []) := by decide +kernel
theorem test_logl_zero : answer (.logl 0x00#8) ready = some (0x83, [], []) := by decide +kernel
theorem test_gfadd_no_carry : answer (.gfadd 0xFF#8 0x01#8) cold = some (0x00, [0xFE], []) := by decide
/-- 30_encoding.md R68 (7): a result of one byte is longer than SEQ_MAX = 0. -/
theorem test_gfadd_over_capacity : answer (.gfadd 0xFF#8 0x01#8) closed = some (0x89, [], []) := by decide
theorem test_gfsub_self : answer (.gfsub 0x12#8 0x12#8) cold = some (0x00, [0x00], []) := by decide
theorem test_gfmul_exact_sum : answer (.gfmul 0x53#8 0xCA#8) ready = some (0x00, [0x8F], []) := by decide +kernel
theorem test_gfmul_zero_not_ready : answer (.gfmul 0x00#8 0x05#8) cold = some (0x81, [], []) := by decide +kernel
theorem test_gfdiv_negative_difference : answer (.gfdiv 0x01#8 0x02#8) ready = some (0x00, [0x8E], []) := by
  decide +kernel
theorem test_gfdiv_zero_by_zero : answer (.gfdiv 0x00#8 0x00#8) ready = some (0x01, [], []) := by decide +kernel
theorem test_pmul_leading_zero : answer (.pmul [0x03, 0x00, 0x05] [0x00, 0x02]) ready
    = some (0x00, [0x00, 0x06, 0x00, 0x0A], []) := by decide +kernel
theorem test_pmul_empty : answer (.pmul [] [0x01]) ready = some (0x84, [], []) := by decide +kernel
theorem test_pdivmod_trace : answer (.pdivmod [1, 2, 3, 4, 5] [1, 3, 2]) ready
    = some (0x00, [0x01, 0x01, 0x02], [0x00, 0x01]) := by decide +kernel
theorem test_pdivmod_non_monic : answer (.pdivmod [] [0x02]) ready = some (0x85, [], []) := by decide +kernel
theorem test_genpoly_three : answer (.genpoly 3#8) ready = some (0x00, [0x01, 0x07, 0x0E, 0x08], []) := by
  decide +kernel
theorem test_genpoly_zero : answer (.genpoly 0#8) ready = some (0x00, [0x01], []) := by decide +kernel
theorem test_rsenc_two : answer (.rsenc 2#8 [0x80]) ready = some (0x00, [0x80, 0x9D, 0x1D], []) := by decide +kernel
theorem test_rsenc_too_long : answer (.rsenc 255#8 [0x00]) ready = some (0x02, [], []) := by decide +kernel
theorem test_bsenc_A : answer (.bsenc [0x41]) cold
    = some (0x00, [0, 1, 0, 0, 0, 0, 0, 0, 0, 0, 0, 1, 0, 1, 0, 0, 0, 0, 0, 1], []) := by decide
theorem test_bsenc_length_first : answer (.bsenc (0x100 :: List.replicate 255 0x41)) cold = some (0x02, [], []) := by
  decide +kernel
theorem test_bpack_short_group : answer (.bpack [1, 0, 1, 1, 0, 0, 1, 1, 1]) cold = some (0x00, [0xB3, 0x80], []) := by
  decide +kernel
theorem test_bpack_right_align :
    answer (.bpack [1, 0, 1]) { cold with params := { params16 with packTail := .rightAlign } }
      = some (0x00, [0x05], []) := by decide +kernel
theorem test_bunpack_msb_first : answer (.bunpack [0x01, 0x80]) cold
    = some (0x00, [0, 0, 0, 0, 0, 0, 0, 1, 1, 0, 0, 0, 0, 0, 0, 0], []) := by decide
theorem test_bunpack_over_capacity : answer (.bunpack [0x01]) bounded = some (0x89, [], []) := by decide
/-- V66: row 0 of the result. -/
theorem test_mxasm_row_zero : ((answer (.mxasm 1#8 [1, 0, 1, 1]) cold).map fun a => (a.1, a.2.1.take 21))
    = some (0x00, [1, 1, 1, 1, 1, 1, 1, 1, 0, 1, 1, 0, 0, 0, 1, 1, 1, 1, 1, 1, 1]) := by decide +kernel
theorem test_mxasm_version_zero : answer (.mxasm 0#8 []) cold = some (0x87, [], []) := by decide
/-- V69: rows 0 and 1 of the result. -/
theorem test_qrenc_empty_text : ((answer (.qrenc 1#8 0#8 []) ready).map fun a => (a.1, a.2.1.take 42))
    = some (0x00, [1, 1, 1, 1, 1, 1, 1, 0, 1, 0, 0, 0, 0, 0, 1, 1, 1, 1, 1, 1, 1,
        1, 0, 0, 0, 0, 0, 1, 0, 0, 0, 0, 0, 0, 0, 1, 0, 0, 0, 0, 0, 1]) := by decide +kernel
theorem test_qrenc_version_before_stages : answer (.qrenc 0#8 7#8 [0x100]) ready = some (0x87, [], []) := by
  decide +kernel

/-- V63: the alignment positions for version 2 and 3. -/
theorem test_alignment_positions :
    ([(16, 16, 2), (22, 22, 3), (7, 7, 2), (7, 13, 2)].all fun (r, c, v) => alignmentFits ⟨r, c, .zeroPadRight, none⟩ v)
      = true ∧
    ([(2, 2, 2), (4, 16, 2), (16, 4, 2), (22, 22, 2), (6, 14, 2)].any fun (r, c, v) =>
      alignmentFits ⟨r, c, .zeroPadRight, none⟩ v) = false := by decide

/-- The closed forms of 45_matrix_ops.md R151 and R152, by the distance from the centre. -/
theorem test_bitmaps_by_distance :
    (∀ i < 7, ∀ j < 7, ((finder.getD i []).getD j 0#1 = 0#1 ↔ max (max (i - 3) (3 - i)) (max (j - 3) (3 - j)) = 2)) ∧
    (∀ i < 5, ∀ j < 5, ((alignment.getD i []).getD j 0#1 = 0#1 ↔ max (max (i - 2) (2 - i)) (max (j - 2) (2 - j)) = 1)) := by
  decide

/-! ### Witnesses: states and operands that meet the hypotheses of the statements -/

theorem ready_inv : Inv ready := fun _ => built_afterInit

theorem ready_within (n : Nat) : WithinSeqMax ready n := by intro m h; cases h

theorem cold_within (n : Nat) : WithinSeqMax cold n := by intro m h; cases h

theorem admitted_one : Admitted params16 1 := ⟨by decide, by decide⟩

theorem admitted_two : Admitted params16 2 := ⟨by decide, by decide⟩

theorem witness_EncodingADecodedRequestGivesItBack :
    (⟨0x12FFFF00#32, [], []⟩ : Request).wellFormed = true ∧
    decode ⟨0x12FFFF00#32, [], []⟩ = .ok (.gfmul 0xFF#8 0xFF#8) := by decide

/-- One request for each of (a), (b), (c). -/
theorem witness_EveryRequestSelectsOneRowOrIsIllegal :
    ({ ready with requests := [⟨0x61000000#32, [], []⟩] } : State).requests = ⟨0x61000000#32, [], []⟩ :: [] ∧
    opcodeField 0x61000000#32 ∉ ([0x01, 0x02, 0x03, 0x10, 0x11, 0x12, 0x13, 0x20, 0x21, 0x30, 0x31, 0x40, 0x41, 0x42,
      0x50, 0x60] : List Byte) ∧
    (∃ row ∈ opRows, opcodeField row.pattern = opcodeField 0x60000001#32 ∧ row.selects 0x60000001#32 = false) ∧
    (∃ row ∈ opRows, row.selects 0x60000000#32 = true ∧ row.unusedEmpty ⟨0x60000000#32, [], [0]⟩ = false) ∧
    (∃ row ∈ opRows, row.selects 0x60FFFF00#32 = true) := by decide

theorem witness_StepRunsTheDecodedOperation :
    ({ ready with requests := [⟨0x02000008#32, [], []⟩] } : State).requests = ⟨0x02000008#32, [], []⟩ :: [] ∧
    decode ⟨0x02000008#32, [], []⟩ = .ok (.expl 8#16) := by decide

theorem witness_EveryStepAnswersTheOldestRequest :
    cold.requests = [] ∧
    ({ cold with requests := [⟨0x10020300#32, [], []⟩, ⟨0#32, [], []⟩] } : State).requests
      = ⟨0x10020300#32, [], []⟩ :: [⟨0#32, [], []⟩] := by decide

theorem witness_EveryStepKeepsTheInvariant : Inv ready ∧ ∃ t, step ready = .next t := ⟨ready_inv, ready, rfl⟩

theorem witness_ReadyTablesSatisfyTheTableInvariants :
    Inv ready ∧ ready.ready = true ∧ Instr.expl 0#16 ≠ .init ∧ ∃ t, exec (.expl 0#16) ready = .next t :=
  ⟨ready_inv, rfl, by decide, _, rfl⟩

theorem witness_OperationsOtherThanInitOnlyAnswer : Instr.bpack [] ≠ .init := by decide

/-- A request that fails: GFDIV by zero. -/
theorem witness_FailuresLeaveNoTrace :
    ∃ t resp, ({ ready with requests := [⟨0x13050000#32, [], []⟩] } : State).requests = ⟨0x13050000#32, [], []⟩ :: [] ∧
      step { ready with requests := [⟨0x13050000#32, [], []⟩] } = .next t ∧
      t.responses = ready.responses ++ [resp] ∧ resp.status ≠ .ok :=
  ⟨_, failure .divisionByZero, rfl, rfl, rfl, by decide⟩

theorem witness_OperationsThatCannotFail :
    (∃ t r, exec (.gfmul 0x00#8 0x00#8) ready = .next t ∧ t.responses = ready.responses ++ [r] ∧ ready.ready = true) ∧
    (∃ t r, exec (.genpoly 255#8) ready = .next t ∧ t.responses = ready.responses ++ [r]) ∧
    (∃ t r, exec .init cold = .next t ∧ t.responses = cold.responses ++ [r]) ∧
    (∃ t r, exec (.bpack []) cold = .next t ∧ t.responses = cold.responses ++ [r]) :=
  ⟨⟨_, _, exec_eq _ _, rfl, rfl⟩, ⟨_, _, exec_eq _ _, rfl⟩, ⟨_, _, rfl, rfl⟩, ⟨_, _, exec_eq _ _, rfl⟩⟩

theorem witness_TableReadersWaitForInit :
    ReadsTables (.gfdiv 0x05#8 0x00#8) = true ∧ cold.ready = false ∧
    (∀ n ∈ payloadLengths (.gfdiv 0x05#8 0x00#8), WithinSeqMax cold n) ∧
    ReadsTables (.pmul [] []) = true ∧ (∀ n ∈ payloadLengths (.pmul [] []), WithinSeqMax cold n) ∧
    ReadsTables (.mxasm 0#8 []) = false ∧
    (∃ t r, exec (.mxasm 0#8 []) cold = .next t ∧ t.responses = cold.responses ++ [r]) :=
  ⟨rfl, rfl, fun n _ => cold_within n, rfl, fun n _ => cold_within n, rfl, _, _, rfl, rfl⟩

/-- SEQ_MAX = 3: a payload of 4 is beyond it, a payload of 3 within. -/
theorem witness_SequencesStayWithinSeqMax :
    (4 ∈ payloadLengths (.bunpack [1, 2, 3, 4]) ∧ BeyondSeqMax bounded 4) ∧
    (∃ t r, exec (.bpack [1, 0, 1]) bounded = .next t ∧ t.responses = bounded.responses ++ [r] ∧ r.status = .ok) ∧
    (ready.params.seqMax = none ∧ ∃ t r, exec (.bpack [1]) ready = .next t ∧ t.responses = ready.responses ++ [r]) :=
  ⟨⟨by decide, 3, rfl, by decide⟩, ⟨_, _, exec_eq _ _, rfl, rfl⟩, rfl, _, _, exec_eq _ _, rfl⟩

theorem bounded_within {n : Nat} (h : n ≤ 3) : WithinSeqMax bounded n := by intro m hm; cases hm; exact h

theorem bounded_beyond {n : Nat} (h : 3 < n) : BeyondSeqMax bounded n := ⟨3, rfl, h⟩

/-- SEQ_MAX = 0 and the first index, logarithm and divisor; SEQ_MAX = 3 and results of 4 and more. -/
theorem witness_ResultsBeyondSeqMaxAreRefused :
    (closed.ready = true ∧ BeyondSeqMax closed 1 ∧ (509#16).toNat < 510 ∧ (1#8 : Byte) ≠ 0#8) ∧
    bounded.ready = true ∧
    (WithinSeqMax bounded [1#8, 2#8].length ∧ WithinSeqMax bounded [1#8, 3#8, 2#8].length ∧
      BeyondSeqMax bounded ([1#8, 2#8].length + [1#8, 3#8, 2#8].length - 1)) ∧
    BeyondSeqMax bounded ((3#8 : Byte).toNat + 1) ∧
    ([0#8].length + (3#8 : Byte).toNat ≤ 255 ∧ BeyondSeqMax bounded ([0#8].length + (3#8 : Byte).toNat)) ∧
    (WithinSeqMax bounded ([] : List CodePoint).length ∧ BeyondSeqMax bounded (12 + 8 * ([] : List CodePoint).length)) ∧
    BeyondSeqMax bounded (8 * [1#8].length) ∧
    (Admitted bounded.params (1#8 : Byte).toNat ∧ ([] : List CodePoint).length + 2 + (253#8 : Byte).toNat ≤ 255 ∧
      BeyondSeqMax bounded ((4 * (1#8 : Byte).toNat + 17) * (4 * (1#8 : Byte).toNat + 17))) :=
  ⟨⟨rfl, ⟨0, rfl, by decide⟩, by decide, by decide⟩, rfl,
    ⟨bounded_within (by decide), bounded_within (by decide), bounded_beyond (by decide)⟩, bounded_beyond (by decide),
    ⟨by decide, bounded_beyond (by decide)⟩, ⟨bounded_within (by decide), bounded_beyond (by decide)⟩,
    bounded_beyond (by decide), ⟨by decide, by decide⟩, by decide, bounded_beyond (by decide)⟩

theorem witness_ResponsesBeforeInitIgnoreTheTables : cold.ready = false := rfl

theorem witness_ResponsesAfterInitDependOnTheRequestAlone :
    Inv ready ∧ Inv { ready with responses := [failure .badVersion] } ∧ ready.ready = true ∧
    ({ ready with responses := [failure .badVersion] } : State).params = ready.params ∧ ∃ t, step ready = .next t :=
  ⟨ready_inv, fun _ => built_afterInit, rfl, rfl, ready, rfl⟩

theorem witness_QueuedRequestsAreAnsweredInOrder :
    Inv { ready with requests := [⟨0x02000008#32, [], []⟩, ⟨0x01000000#32, [], []⟩] } ∧
    ({ ready with requests := [⟨0x02000008#32, [], []⟩, ⟨0x01000000#32, [], []⟩] } : State).ready = true :=
  ⟨fun _ => built_afterInit, rfl⟩

theorem witness_SecondInitChangesNothing : Inv ready ∧ ready.ready = true := ⟨ready_inv, rfl⟩

/-- The last index, the first index beyond, and the state before INIT. -/
theorem witness_ExplReadsOneEntryOfExp :
    cold.ready = false ∧ ready.ready = true ∧ 510 ≤ (510#16).toNat ∧ WithinSeqMax ready 1 ∧ (509#16).toNat < 510 :=
  ⟨rfl, rfl, by decide, ready_within _, by decide⟩

theorem witness_LoglReadsOneEntryOfLog :
    cold.ready = false ∧ ready.ready = true ∧ (0#8 : Byte) = 0#8 ∧ WithinSeqMax bounded 1 ∧ (1#8 : Byte) ≠ 0#8 ∧
    (0xFF#8 : Byte) ≠ 0#8 := ⟨rfl, rfl, rfl, bounded_within (by decide), by decide, by decide⟩

theorem witness_AddAndSubtractAreXor :
    ({ cold with requests := [⟨0x10FF01FF#32, [], []⟩] } : State).requests = ⟨0x10FF01FF#32, [], []⟩ :: [] ∧
    (0x10FF01FF#32).extractLsb' 24 8 = 0x10#8 ∧ (0x10FF01FF#32).extractLsb' 0 8 ≠ 0#8 ∧
    (0x11FF0100#32).extractLsb' 24 8 = 0x11#8 ∧ (0x11FF0100#32).extractLsb' 0 8 = 0#8 ∧
    WithinSeqMax { cold with requests := [⟨0x11FF0100#32, [], []⟩] } 1 :=
  ⟨rfl, by decide, by decide, by decide, by decide, by intro m h; cases h⟩

theorem witness_GfmulReadsExpAtTheLogSum :
    cold.ready = false ∧ ready.ready = true ∧ WithinSeqMax ready 1 ∧ ((0x00#8 : Byte) = 0#8 ∨ (0x05#8 : Byte) = 0#8) ∧
    (0x8E#8 : Byte) ≠ 0#8 ∧ (0x02#8 : Byte) ≠ 0#8 := ⟨rfl, rfl, ready_within _, by decide, by decide, by decide⟩

theorem witness_GfdivReadsExpAtTheLogDifference :
    cold.ready = false ∧ ready.ready = true ∧ WithinSeqMax ready 1 ∧ (0#8 : Byte) = 0#8 ∧ (0x07#8 : Byte) ≠ 0#8 ∧
    (0x01#8 : Byte) ≠ 0#8 := ⟨rfl, rfl, ready_within _, rfl, by decide, by decide⟩

theorem witness_tables_are_built : Built Tables.afterInit := built_afterInit

theorem witness_GfmulIsMultiplicationModulo0x11D : Built Tables.afterInit ∧ 509 < 510 := ⟨built_afterInit, by decide⟩

theorem witness_FieldLawsHoldAfterInit : Built Tables.afterInit ∧ (0xCA#8 : Byte) ≠ 0#8 := ⟨built_afterInit, by decide⟩

theorem witness_PmulReturnsTheProductOfThePseudocode :
    WithinSeqMax ready [0x01#8, 0x02#8].length ∧ ready.ready = true ∧ cold.ready = false ∧
    ([] : List Byte) = [] ∧ [0x01#8, 0x02#8] ≠ [] ∧ WithinSeqMax bounded ([0x01#8, 0x02#8].length + [0x03#8, 0x00#8].length - 1) :=
  ⟨ready_within _, rfl, rfl, rfl, by decide, by intro m h; cases h; decide⟩

theorem witness_ProductCoefficientsAreConvolutions : [0x00#8] ≠ [] ∧ [0x05#8, 0x06#8] ≠ [] ∧ 1 < 1 + 2 - 1 := by decide

/-- A divisor of each kind, and the shortest dividend a divisor of length 3 admits. -/
theorem witness_PdivmodReturnsTheDivisionOfThePseudocode :
    WithinSeqMax ready [0x05#8, 0x06#8].length ∧ WithinSeqMax ready [0x01#8, 0x03#8, 0x02#8].length ∧ cold.ready = false ∧
    ready.ready = true ∧ ([] : List Byte) = [] ∧ ([0x00#8, 0x01#8] = 0x00#8 :: [0x01#8] ∧ (0x00#8 : Byte) ≠ 0x01#8) ∧
    [0x05#8].length < [0x03#8, 0x02#8].length ∧ [0x03#8, 0x02#8].length ≤ [0x05#8, 0x06#8].length :=
  ⟨ready_within _, ready_within _, rfl, rfl, rfl, ⟨rfl, by decide⟩, by decide, by decide⟩

theorem witness_DividendIsQuotientTimesDivisorPlusRemainder :
    Built Tables.afterInit ∧ [0x01#8, 0x03#8].head? = some 0x01#8 ∧ [0x01#8, 0x03#8].length ≤ [0x05#8, 0x06#8].length :=
  ⟨built_afterInit, rfl, by decide⟩

theorem witness_DivisionUndoesMultiplication :
    Built Tables.afterInit ∧ [0x00#8] ≠ [] ∧ [0x01#8].head? = some 0x01#8 ∧ [0x01#8] ≠ [] ∧
    [0x01#8, 0x03#8].length - 1 ≤ [0x05#8].length := ⟨built_afterInit, by decide⟩

theorem witness_GenpolyReturnsTheProductOfTheFactors :
    cold.ready = false ∧ ready.ready = true ∧ WithinSeqMax ready ((255#8 : Byte).toNat + 1) ∧
    WithinSeqMax bounded ((2#8 : Byte).toNat + 1) :=
  ⟨rfl, rfl, ready_within _, by intro m h; cases h; decide⟩

theorem witness_GeneratorIsMonicAndVanishesAtItsRoots :
    Built Tables.afterInit ∧ 0 < (1#8 : Byte).toNat ∧ 254 < (255#8 : Byte).toNat := ⟨built_afterInit, by decide⟩

/-- The boundary: L + nsym = 255 and 256. -/
theorem witness_RsencAppendsTheParity :
    WithinSeqMax ready [0x00#8].length ∧ cold.ready = false ∧ ready.ready = true ∧
    255 < [0x00#8].length + (255#8 : Byte).toNat ∧ [0x00#8].length + (254#8 : Byte).toNat ≤ 255 ∧
    WithinSeqMax ready ([0x00#8].length + (254#8 : Byte).toNat) :=
  ⟨ready_within _, rfl, rfl, by decide, by decide, ready_within _⟩

theorem witness_CodewordsAreSystematicMultiplesOfTheGenerator :
    [0x00#8].length + (254#8 : Byte).toNat ≤ 255 ∧ 255 < [0x00#8].length + (255#8 : Byte).toNat := by decide

theorem longText {n : Nat} {c : CodePoint} (h : 255 < n) : 255 < (List.replicate n c).length := by
  rw [List.length_replicate]; exact h

theorem witness_BsencBuildsTheBitString :
    WithinSeqMax cold 256 ∧ 255 < (List.replicate 256 (0x41#32 : CodePoint)).length ∧
    (∃ c ∈ [0x41#32, 0x100#32], 255 < c.toNat) ∧ (∀ c ∈ [0xFF#32], c.toNat ≤ 255) ∧ [0xFF#32].length ≤ 255 ∧
    WithinSeqMax cold (12 + 8 * [0xFF#32].length) :=
  ⟨cold_within _, longText (by decide), ⟨0x100#32, .tail _ (.head _), by decide⟩,
    fun c h => by rw [List.mem_singleton.mp h]; decide, by decide, cold_within _⟩

theorem witness_BitStringsDetermineTheirText :
    ∃ bits, dataEncode [0x41#32] = .ok bits := ⟨_, rfl⟩

theorem witness_BpackPacksEachGroup : WithinSeqMax bounded [1#1, 0#1, 1#1].length := by intro m h; cases h; decide

theorem witness_PackedBitsKeepTheirPlaces :
    7 < 8 * ((List.replicate 9 1#1).length / 8) ∧
    0 < [1#1, 0#1, 1#1].length ∧ [1#1, 0#1, 1#1].length ≤ 3 ∧ 3 < 8 * (([1#1, 0#1, 1#1].length + 7) / 8) ∧
    [1#1, 0#1, 1#1].length % 8 ≠ 0 ∧ 8 * ([1#1, 0#1, 1#1].length / 8) ≤ 0 ∧ 2 < [1#1, 0#1, 1#1].length ∧
    [1#1, 0#1, 1#1].length % 8 ≤ 3 := by decide

theorem witness_PackingAndUnpackingAreInverse : (List.replicate 16 1#1).length % 8 = 0 := by decide

theorem witness_BunpackUnpacksEachByte :
    WithinSeqMax cold [0x01#8].length ∧ WithinSeqMax cold (8 * [0x01#8].length) := ⟨cold_within _, cold_within _⟩

/-- A version of each kind, and alignment positions that fit and do not. -/
theorem witness_MxasmAssemblesTheMatrixOfThePseudocode :
    WithinSeqMax cold [1#1].length ∧ (0#8 : Byte) = 0#8 ∧
    (1 < (2#8 : Byte).toNat ∧
      alignmentFits ({ cold with params := { params16 with alignR0 := 6, alignC0 := 14 } } : State).params 2 = false) ∧
    Admitted cold.params 1 ∧ Admitted cold.params 2 ∧ WithinSeqMax cold ((4 * 2 + 17) * (4 * 2 + 17)) :=
  ⟨cold_within _, rfl, ⟨by decide, by decide⟩, admitted_one, admitted_two, cold_within _⟩

theorem witness_MatrixKeepsItsPatternsAndPlacesTheBits :
    Admitted params16 1 ∧ Admitted params16 2 ∧ 25 = 4 * 2 + 17 ∧ (20 < 25 ∧ IsFixed params16 2 20 20 = true) ∧ 6 < 7 ∧
    (18, 0) ∈ [(0, 0), (0, 25 - 7), (25 - 7, 0)] :=
  ⟨admitted_one, admitted_two, rfl, by decide, by decide, by decide⟩

theorem witness_AlignmentBlockStandsWhateverTheBits :
    Admitted params16 2 ∧ 1 < 2 ∧ 25 = 4 * 2 + 17 ∧ 4 < 5 := ⟨admitted_two, by decide, rfl, by decide⟩

theorem witness_FreeCellsAreCounted : Admitted params16 1 ∧ Admitted params16 2 := ⟨admitted_one, admitted_two⟩

theorem witness_AlignmentIsAdmittedExactlyWhenItFits : 1 < 2 ∧ 4 < 5 := by decide

/-- The boundaries n + 2 + nsym = 255 and 256, and each refusal. -/
theorem witness_QrencRunsTheThreeStages :
    WithinSeqMax ready 256 ∧ cold.ready = false ∧ ready.ready = true ∧ (0#8 : Byte) = 0#8 ∧
    (1 < (2#8 : Byte).toNat ∧
      alignmentFits ({ ready with params := { params16 with alignR0 := 2, alignC0 := 2 } } : State).params 2 = false) ∧
    Admitted ready.params 1 ∧ 255 < (List.replicate 256 (0x41#32 : CodePoint)).length ∧
    ([0x100#32].length ≤ 255 ∧ ∃ c ∈ [0x100#32], 255 < c.toNat) ∧
    ((∀ c ∈ [0x41#32], c.toNat ≤ 255) ∧ 255 < [0x41#32].length + 2 + (253#8 : Byte).toNat) ∧
    [0x41#32].length + 2 + (252#8 : Byte).toNat ≤ 255 ∧ WithinSeqMax ready ((4 * 1 + 17) * (4 * 1 + 17)) :=
  ⟨ready_within _, rfl, rfl, rfl, ⟨by decide, by decide⟩, admitted_one, longText (by decide),
    ⟨by decide, 0x100#32, .head _, by decide⟩, ⟨fun c h => by rw [List.mem_singleton.mp h]; decide, by decide⟩, by decide,
    ready_within _⟩

/-- The empty text with no parity: every stage answers OK. -/
theorem witness_QrencEqualsTheStagesByHand :
    ∃ bits message codeword parityBits matrix,
      Answers (.bsenc []) ready (okBits bits) ∧ Answers (.bpack bits) ready (okBytes message) ∧
      Answers (.rsenc 0#8 message) ready (okBytes codeword) ∧
      Answers (.bunpack (codeword.drop message.length)) ready (okBits parityBits) ∧
      Answers (.mxasm 1#8 (bits ++ parityBits)) ready (okBits matrix) :=
  ⟨modeIndicator ++ bits8 0#8, [0x40#8, 0x00#8], [0x40#8, 0x00#8], [], createMatrix params16 1 (modeIndicator ++ bits8 0#8),
    rfl, rfl, rfl, rfl, rfl⟩

end Sys2Proof.Tests
end

/-! SUPPORT. What one step can leave behind, which response a request gets, and the laws of the tables INIT builds,
with the statements on the state and its invariant that follow from them (10_state.md). -/

namespace Sys2Proof.Proofs

open Sys2Proof.Machine Sys2Proof.Safety

/-! ### What exec and step leave of the state -/

/-- `t` has the persistent state of `s`, or that of a block INIT has just run on (10_state.md R20, R23); the
parameters are those of `s` (R28). The two channels are left open. -/
def KeepsOrBuilds (s t : State) : Prop :=
  t.params = s.params ∧
    ((t.tables = s.tables ∧ t.ready = s.ready) ∨ (t.tables = Tables.afterInit ∧ t.ready = true))

/-- An operation other than INIT answers with the old state and one response more. -/
theorem answers_of_ne_init {i : Instr} (s : State) (h : i ≠ .init) :
    Answers i s (Answer.response (answerOf i s.tables s.ready s.params)) :=
  exec_of_ne_init s h

/-- An operation other than INIT ends in the old state with one response more. -/
theorem eq_respond_of_exec {i : Instr} {s t : State} (hi : i ≠ .init) (h : exec i s = .next t) :
    t = s.respond (Answer.response (answerOf i s.tables s.ready s.params)) :=
  (Host.Outcome.next.inj ((answers_of_ne_init s hi).symm.trans h)).symm

theorem exec_keepsOrBuilds {i : Instr} {s t : State} (h : exec i s = .next t) : KeepsOrBuilds s t := by
  by_cases hi : i = .init
  · subst hi
    obtain rfl := Host.Outcome.next.inj ((exec_init s).symm.trans h)
    exact ⟨rfl, .inr ⟨rfl, rfl⟩⟩
  · obtain rfl := eq_respond_of_exec hi h
    exact ⟨rfl, .inl ⟨rfl, rfl⟩⟩

theorem step_nil {s : State} (h : s.requests = []) : step s = .next s := by
  simp only [step, State.fetch_nil h]

theorem step_illegal {s : State} {r : Request} {rest : List Request} {e : Illegal} (h : s.requests = r :: rest)
    (hd : decode r = .error e) : step s = .next (({ s with requests := rest } : State).rejectIllegal e) := by
  simp only [step_cons h, hd]

theorem step_decoded {s : State} {r : Request} {rest : List Request} {i : Instr} (h : s.requests = r :: rest)
    (hd : decode r = .ok i) : step s = exec i { s with requests := rest } := by
  simp only [step_cons h, hd]

/-- The three ways a step answers a next state: idle, an illegal request, and a decoded operation. -/
theorem step_keepsOrBuilds {s t : State} (h : step s = .next t) : KeepsOrBuilds s t := by
  cases hq : s.requests with
  | nil =>
    obtain rfl := Host.Outcome.next.inj ((step_nil hq).symm.trans h)
    exact ⟨rfl, .inl ⟨rfl, rfl⟩⟩
  | cons r rest =>
    cases hd : decode r with
    | error e =>
      obtain rfl := Host.Outcome.next.inj ((step_illegal hq hd).symm.trans h)
      exact ⟨rfl, .inl ⟨rfl, rfl⟩⟩
    | ok i =>
      have hkept : KeepsOrBuilds { s with requests := rest } t := exec_keepsOrBuilds ((step_decoded hq hd).symm.trans h)
      exact hkept

/-! ### The invariant of 10_state.md R23 -/

theorem inv_of_not_ready {s : State} (h : s.ready = false) : Inv s := by
  intro hready
  rw [h] at hready
  contradiction

/-- The invariant speaks of the persistent state only, and the tables INIT leaves are built. -/
theorem KeepsOrBuilds.inv {s t : State} (h : KeepsOrBuilds s t) (hinv : Inv s) : Inv t := by
  obtain ⟨-, ⟨htables, hready⟩ | ⟨htables, -⟩⟩ := h
  · intro ht
    rw [htables]
    exact hinv (hready ▸ ht)
  · intro _
    rw [htables]
    exact built_afterInit

theorem KeepsOrBuilds.ready {s t : State} (h : KeepsOrBuilds s t) (hs : s.ready = true) : t.ready = true := by
  obtain ⟨-, ⟨-, hready⟩ | ⟨-, hready⟩⟩ := h
  · rw [hready, hs]
  · exact hready

/-- Settles O8: READY is 0 at reset, so nothing is asked of the unspecified tables. -/
theorem invariantHoldsAtReset : Obligations.InvariantHoldsAtReset :=
  inv_of_not_ready State.reset_ready

/-- Settles O9: a step keeps the persistent state or leaves the tables INIT builds, and both have the invariant. -/
theorem everyStepKeepsTheInvariant : Obligations.EveryStepKeepsTheInvariant := by
  intro s t hinv hstep
  have hkept := step_keepsOrBuilds hstep
  exact ⟨hkept.inv hinv, hkept.ready, hkept.1⟩

/-- Settles O11. -/
theorem operationsOtherThanInitOnlyAnswer : Obligations.OperationsOtherThanInitOnlyAnswer :=
  fun _ s hi => ⟨_, answers_of_ne_init s hi⟩

/-! ### The generator sequence and the tables that hold it (10_state.md R21, R22, R24) -/

theorem generatorTerm_mod (i : Nat) : generatorTerm (i % 255) = generatorTerm i :=
  Function.Periodic.map_mod_nat generatorTerm_add_period i

theorem gfStep_ne_zero : ∀ x : Byte, x ≠ 0#8 → gfStep x ≠ 0#8 := by decide +kernel

theorem generatorTerm_ne_zero (i : Nat) : generatorTerm i ≠ 0#8 := by
  induction i with
  | zero => decide
  | succ i ih => exact gfStep_ne_zero _ ih

theorem generatorSeq_nodup : (generatorSeq 255 0x01#8).Nodup := by decide +kernel

/-- No term repeats within the first period. -/
theorem generatorTerm_inj {i j : Nat} (hi : i < 255) (hj : j < 255) (h : generatorTerm i = generatorTerm j) :
    i = j := by
  have hlen : (generatorSeq 255 0x01#8).length = 255 := generatorSeq_length _ _
  rw [generatorTerm_eq, generatorTerm_eq, ← generatorSeq_getElem 255 _ i (by omega),
    ← generatorSeq_getElem 255 _ j (by omega)] at h
  exact (generatorSeq_nodup.getElem_inj_iff).1 h

/-- LOG is the inverse of the first period of EXP. -/
theorem built_logAt_of_generatorTerm {t : Tables} (ht : Built t) {i : Nat} (hi : i < 255) {x : Byte} (hx : x ≠ 0#8)
    (h : generatorTerm i = x) : (t.logAt x hx).toNat = i := by
  have hlog : generatorTerm (t.logAt x hx).toNat = x := (ht.exp_eq _ _).symm.trans (ht.exp_log x hx)
  exact generatorTerm_inj (ht.log_lt x hx) hi (hlog.trans h.symm)

/-- (a) to (f) of 10_state.md R24 follow from R21 and R22. -/
theorem tableInvariants_of_built {t : Tables} (ht : Built t) : TableInvariants t where
  exp_log := ht.exp_log
  log_one := BitVec.eq_of_toNat_eq (built_logAt_of_generatorTerm ht (by decide) _ rfl)
  periodic i h _ := by rw [ht.exp_eq, ht.exp_eq, generatorTerm_mod]
  exp_zero := ht.exp_eq 0 _
  log_exp i h := by
    have hexp := ht.exp_eq i (by omega)
    exact ⟨hexp ▸ generatorTerm_ne_zero i, built_logAt_of_generatorTerm ht h _ hexp.symm⟩
  exp_one := ht.exp_eq 1 _
  log_two := BitVec.eq_of_toNat_eq (built_logAt_of_generatorTerm ht (by decide) _ (by decide))

/-- Settles O10. -/
theorem readyTablesSatisfyTheTableInvariants : Obligations.ReadyTablesSatisfyTheTableInvariants := by
  refine ⟨fun s hinv hready => tableInvariants_of_built (hinv hready), fun i s t hi hexec => ?_⟩
  rw [eq_respond_of_exec hi hexec, State.respond_tables]

/-! ### Which response a request gets -/

theorem responseTo_illegal (s : State) {r : Request} {e : Illegal} (hd : decode r = .error e) :
    responseTo s r = some (failure .illegalCommand) := by
  rw [responseTo, step_illegal rfl hd]
  rfl

theorem responseTo_decoded (s : State) {r : Request} {i : Instr} (hd : decode r = .ok i) :
    responseTo s r = some (Answer.response (answerOf i s.tables s.ready s.params)) := by
  rw [responseTo, step_decoded rfl hd, exec_eq]
  rfl

/-- While READY is 0 an operation reads no table: it is refused before it does, or it never does
(30_encoding.md R68 (5)). -/
theorem answerOf_not_ready (i : Instr) (t t' : Tables) (p : Params) : answerOf i t false p = answerOf i t' false p := by
  cases i <;> simp only [answerOf, needTables_false]

/-- Settles O16: an illegal request is answered without the state, and an operation while READY is 0 without the
tables. -/
theorem responsesBeforeInitIgnoreTheTables : Obligations.ResponsesBeforeInitIgnoreTheTables := by
  intro s other r hready
  cases hd : decode r with
  | error e => rw [responseTo_illegal _ hd, responseTo_illegal _ hd]
  | ok i =>
    rw [responseTo_decoded _ hd, responseTo_decoded _ hd]
    simp only [hready]
    rw [answerOf_not_ready]

end Sys2Proof.Proofs

/-! SUPPORT. Requests served one after another (20_memory.md R46 to R49): the one response of a step, what a ready
block leaves unchanged, and a queue of requests, with the statements that follow from them. -/

namespace Sys2Proof.Proofs

open Sys2Proof.Machine Sys2Proof.Safety

/-! ### One step, one response -/

/-- Settles O5. -/
theorem stepRunsTheDecodedOperation : Obligations.StepRunsTheDecodedOperation :=
  fun _ _ _ _ hq hd => step_decoded hq hd

/-- A step with a request waiting appends the one response that the request has by itself. -/
theorem step_appends_responseTo {s : State} {r : Request} {rest : List Request} (hq : s.requests = r :: rest) :
    ∃ t resp, step s = .next t ∧ t.requests = rest ∧ t.responses = s.responses ++ [resp] ∧
      responseTo s r = some resp := by
  cases hd : decode r with
  | error e => exact ⟨_, _, step_illegal hq hd, rfl, rfl, responseTo_illegal s hd⟩
  | ok i => exact ⟨_, _, (step_decoded hq hd).trans (exec_eq i _), rfl, rfl, responseTo_decoded s hd⟩

/-- Settles O6: the response is the request's own, and no step writes a parameter. -/
theorem everyStepAnswersTheOldestRequest : Obligations.EveryStepAnswersTheOldestRequest := by
  intro s
  refine ⟨step_nil, fun r rest hq => ?_⟩
  obtain ⟨t, resp, hstep, hrequests, hresponses, hresp⟩ := step_appends_responseTo hq
  exact ⟨t, resp, hstep, hrequests, hresponses, (step_keepsOrBuilds hstep).1, hresp⟩

/-! ### The tables of a ready block are those INIT writes -/

/-- LOG[x] for the byte x = k + 1 stands at position k. -/
theorem logAt_ofNat_succ (t : Tables) {k : Nat} (hk : k < 255) (hx : BitVec.ofNat 8 (k + 1) ≠ 0#8) :
    t.logAt (BitVec.ofNat 8 (k + 1)) hx = t.log[k] := by
  have hpos : (BitVec.ofNat 8 (k + 1)).toNat - 1 = k := by
    rw [BitVec.toNat_ofNat]
    omega
  simp only [Tables.logAt, hpos]

theorem ofNat_succ_ne_zero {k : Nat} (hk : k < 255) : BitVec.ofNat 8 (k + 1) ≠ 0#8 := by
  intro h
  have hval := congrArg BitVec.toNat h
  rw [BitVec.toNat_ofNat, BitVec.toNat_ofNat] at hval
  omega

/-- LOG is determined by the values of 10_state.md R21 and R22: only one place of the first period holds x. -/
theorem built_logAt_unique {t t' : Tables} (ht : Built t) (ht' : Built t') (x : Byte) (hx : x ≠ 0#8) :
    t.logAt x hx = t'.logAt x hx := by
  have hterm : generatorTerm (t'.logAt x hx).toNat = x := (ht'.exp_eq _ _).symm.trans (ht'.exp_log x hx)
  exact BitVec.eq_of_toNat_eq (built_logAt_of_generatorTerm ht (ht'.log_lt x hx) hx hterm)

/-- The values of 10_state.md R21 and R22 fix every entry of both tables. -/
theorem built_unique {t t' : Tables} (ht : Built t) (ht' : Built t') : t = t' := by
  have hexp : t.exp = t'.exp := Vector.ext fun i hi => (ht.exp_eq i hi).trans (ht'.exp_eq i hi).symm
  have hlog : t.log = t'.log := Vector.ext fun k hk => by
    have hx := ofNat_succ_ne_zero hk
    rw [← logAt_ofNat_succ t hk hx, ← logAt_ofNat_succ t' hk hx]
    exact built_logAt_unique ht ht' _ hx
  exact (Tables.mk.injEq ..).mpr ⟨hexp, hlog⟩

theorem tables_of_ready {s : State} (hinv : Inv s) (hready : s.ready = true) : s.tables = Tables.afterInit :=
  built_unique (hinv hready) built_afterInit

/-! ### A ready block only answers (20_memory.md R49) -/

/-- INIT over the tables it has already written gives only the response (40_table_ops.md R100 (d)). -/
theorem answers_init_of_ready {s : State} (hinv : Inv s) (hready : s.ready = true) : Answers .init s (okBytes []) := by
  have hsame : ({ s with tables := Tables.afterInit, ready := true } : State) = s := by
    rw [← tables_of_ready hinv hready, ← hready]
  rw [Answers, exec_init, hsame]
  rfl

/-- In a ready block every operation, INIT among them, gives its response and writes nothing. -/
theorem answers_of_ready {s : State} (hinv : Inv s) (hready : s.ready = true) (i : Instr) :
    Answers i s (Answer.response (answerOf i s.tables s.ready s.params)) := by
  by_cases hi : i = .init
  · subst hi
    exact answers_init_of_ready hinv hready
  · exact answers_of_ne_init s hi

/-- A step of a ready block with a request waiting takes the request, appends the response it has by itself, and
changes nothing else. -/
theorem step_of_ready {s : State} {r : Request} {rest : List Request} (hinv : Inv s) (hready : s.ready = true)
    (hq : s.requests = r :: rest) :
    ∃ resp, responseTo s r = some resp ∧ step s = .next (({ s with requests := rest } : State).respond resp) := by
  cases hd : decode r with
  | error e => exact ⟨_, responseTo_illegal s hd, step_illegal hq hd⟩
  | ok i =>
    have hinv' : Inv { s with requests := rest } := hinv
    exact ⟨_, responseTo_decoded s hd, (step_decoded hq hd).trans (answers_of_ready hinv' hready i)⟩

/-- The response to a request reads the tables, READY and the parameters, and neither channel. -/
theorem responseTo_congr {s s' : State} (htables : s.tables = s'.tables) (hready : s.ready = s'.ready)
    (hparams : s.params = s'.params) : responseTo s = responseTo s' := by
  funext r
  simp only [responseTo, htables, hready, hparams]

/-- Settles O17: a ready block has the tables INIT writes, so the parameters alone can tell two such blocks apart; a
step keeps those tables or writes them again. -/
theorem responsesAfterInitDependOnTheRequestAlone : Obligations.ResponsesAfterInitDependOnTheRequestAlone := by
  intro s s' hinv hinv' hready hready' hparams
  have htables := tables_of_ready hinv hready
  constructor
  · have hsame : responseTo s = responseTo s' :=
      responseTo_congr (htables.trans (tables_of_ready hinv' hready').symm) (hready.trans hready'.symm) hparams
    exact congrFun hsame
  · intro t hstep
    have hkept := step_keepsOrBuilds hstep
    have htables' := tables_of_ready (hkept.inv hinv) (hkept.ready hready)
    exact ⟨htables'.trans htables.symm, (hkept.ready hready).trans hready.symm, hkept.1⟩

/-! ### A queue of requests (20_memory.md R48) -/

/-- A run whose first step answers a next state goes on from there. -/
theorem run_succ_of_step {s t : State} (h : step s = .next t) (k : Nat) :
    Host.Core.run core (k + 1) s = Host.Core.run core k t := by
  have hstep : core.step s = .next t := h
  simp only [Host.Core.run, hstep]

/-- The run over a queue, by induction on the requests that wait: the head's response comes first, and what the step
leaves is again a ready block in which every request has the response it had. -/
theorem run_answers_queue (requests : List Request) : ∀ s : State, Inv s → s.ready = true → s.requests = requests →
    ∃ answers : List Response, answers.map some = requests.map (responseTo s) ∧
      Host.Core.run core requests.length s =
        .next { s with requests := [], responses := s.responses ++ answers } := by
  induction requests with
  | nil =>
    intro s _ _ hq
    refine ⟨[], rfl, congrArg Host.Outcome.next ?_⟩
    rw [List.append_nil, ← hq]
  | cons r rest ih =>
    intro s hinv hready hq
    obtain ⟨resp, hresp, hstep⟩ := step_of_ready hinv hready hq
    obtain ⟨answers, hanswers, hrun⟩ := ih (({ s with requests := rest } : State).respond resp) hinv hready rfl
    refine ⟨resp :: answers, ?_, ?_⟩
    · have hsame : responseTo (({ s with requests := rest } : State).respond resp) = responseTo s :=
        responseTo_congr rfl rfl rfl
      rw [List.map_cons, List.map_cons, hanswers, hresp, hsame]
    · rw [List.length_cons, run_succ_of_step hstep, hrun, State.respond_responses, List.append_assoc]
      rfl

/-- Settles O18. -/
theorem queuedRequestsAreAnsweredInOrder : Obligations.QueuedRequestsAreAnsweredInOrder :=
  fun s hinv hready => run_answers_queue s.requests s hinv hready rfl

end Sys2Proof.Proofs

/-! SUPPORT. The decoder against the opcode map (30_encoding.md R61 to R65): what the map's row of an opcode says of a
request is what `decode` answers, with the statements on encoding that follow from it. -/

namespace Sys2Proof.Proofs

open Sys2Proof.Machine Sys2Proof.Safety

/-! ### Encoding, then decoding -/

@[simp] theorem checkRow_ok_iff {reservedZero unusedEmpty : Bool} {i j : Instr} :
    checkRow reservedZero unusedEmpty i = .ok j ↔ reservedZero = true ∧ unusedEmpty = true ∧ i = j := by
  cases reservedZero <;> cases unusedEmpty <;> simp [checkRow]

/-- Settles O1: the word the encoder builds has the operation's opcode, its operands and no reserved bit, and
zero-extension loses nothing of a payload; so the checks of the opcode's row pass and every operand is read back. -/
theorem decodingAnEncodedOperationGivesItBack : Obligations.DecodingAnEncodedOperationGivesItBack := by
  intro i
  cases i <;> simp [encode, decode]

/-- Settles O4. -/
theorem wordsTheSpecWritesOutDecode : Obligations.WordsTheSpecWritesOutDecode := by
  unfold Obligations.WordsTheSpecWritesOutDecode
  decide

/-! ### A word from its fields (30_encoding.md R61) -/

/-- A word is its opcode, the fields `a` and `b`, and its low byte. -/
theorem eq_commandOf_or_low (w : Command) :
    w = commandOf (opcodeField w) (fieldA w) (fieldB w) ||| (w.extractLsb' 0 8).setWidth 32 := by
  apply BitVec.eq_of_getLsbD_eq
  intro i hi
  interval_cases i <;> simp [commandOf, opcodeField, fieldA, fieldB]

/-- A field inside a stretch of zeros is zero. -/
theorem extractLsb'_eq_zero_of_within {w : Command} {start len start' len' : Nat}
    (h : w.extractLsb' start len = 0#len) (hstart : start ≤ start') (hend : start' + len' ≤ start + len) :
    w.extractLsb' start' len' = 0#len' := by
  have hfield : w.extractLsb' start' len' = (w.extractLsb' start len).extractLsb' (start' - start) len' := by
    apply BitVec.eq_of_getLsbD_eq
    intro i hi
    have hpos : start' - start + i < len := by omega
    have hsum : start + (start' - start + i) = start' + i := by omega
    simp [hi, hpos, hsum]
  rw [hfield, h, BitVec.extractLsb'_zero]

section Formats

variable {w : Command} {op : Byte} (hop : opcodeField w = op)

include hop

theorem eq_commandOf_of_zeroXY (h : zeroXY w = true) : w = commandOf op (fieldA w) (fieldB w) := by
  have hlow : w.extractLsb' 0 8 = 0#8 := beq_iff_eq.mp h
  have hw := eq_commandOf_or_low w
  rwa [hop, hlow, BitVec.setWidth_zero, BitVec.or_zero] at hw

theorem eq_commandOf_of_zeroX (h : zeroX w = true) : w = commandOf op (fieldA w) 0#8 := by
  have hzero : w.extractLsb' 0 16 = 0#16 := beq_iff_eq.mp h
  have hlow : zeroXY w = true := beq_iff_eq.mpr (extractLsb'_eq_zero_of_within hzero (by omega) (by omega))
  have hb : fieldB w = 0#8 := extractLsb'_eq_zero_of_within hzero (by omega) (by omega)
  exact hb ▸ eq_commandOf_of_zeroXY hop hlow

theorem eq_commandOf_of_zeroZ (h : zeroZ w = true) : w = commandOf op 0#8 0#8 := by
  have hzero : w.extractLsb' 0 24 = 0#24 := beq_iff_eq.mp h
  have hlow : zeroX w = true := beq_iff_eq.mpr (extractLsb'_eq_zero_of_within hzero (by omega) (by omega))
  have ha : fieldA w = 0#8 := extractLsb'_eq_zero_of_within hzero (by omega) (by omega)
  exact ha ▸ eq_commandOf_of_zeroX hop hlow

end Formats

theorem eq_idx_of_zeroI {w : Command} (hop : opcodeField w = 0x02#8) (h : zeroI w = true) :
    w = 0x02000000#32 ||| (fieldIdx w).setWidth 32 := by
  have ha : fieldA w = 0#8 := beq_iff_eq.mp h
  have hidx : commandOf 0x02#8 0#8 (fieldB w) ||| (w.extractLsb' 0 8).setWidth 32
      = 0x02000000#32 ||| (fieldIdx w).setWidth 32 := by
    apply BitVec.eq_of_getLsbD_eq
    intro i hi
    interval_cases i <;> simp [commandOf, fieldB, fieldIdx]
  have hw := eq_commandOf_or_low w
  rwa [hop, ha, hidx] at hw

/-! ### A payload read and written back (30_encoding.md R65) -/

theorem eq_nil_of_unused {p : Seq} (h : payloadWellFormed none p = true) : [] = p :=
  (List.isEmpty_iff.mp h).symm

/-- An element that fits its type's width is unchanged by truncation to it and zero-extension. -/
theorem setWidth_setWidth_of_holds {k : ElemKind} {e : Elem} (h : k.holds e = true) :
    (e.setWidth k.width).setWidth 32 = e := by
  have hlt : e.toNat < 2 ^ k.width := of_decide_eq_true h
  apply BitVec.eq_of_toNat_eq
  rw [BitVec.toNat_setWidth, BitVec.toNat_setWidth, Nat.mod_eq_of_lt hlt, Nat.mod_eq_of_lt e.isLt]

theorem map_setWidth_of_wellFormed {k : ElemKind} {p : Seq} (h : payloadWellFormed (some k) p = true) :
    (p.map (·.setWidth k.width)).map (·.setWidth 32) = p := by
  have hall : ∀ e ∈ p, (e.setWidth k.width).setWidth 32 = e :=
    fun e he => setWidth_setWidth_of_holds (List.all_eq_true.mp h e he)
  rw [List.map_map]
  exact (List.map_congr_left hall).trans (List.map_id p)

theorem byteSeq_readBytes {p : Seq} (h : payloadWellFormed (some .byte) p = true) : byteSeq (readBytes p) = p :=
  map_setWidth_of_wellFormed h

theorem bitSeq_readBits {p : Seq} (h : payloadWellFormed (some .bit) p = true) : bitSeq (readBits p) = p :=
  map_setWidth_of_wellFormed h

/-! ### The decoder, row by row (30_encoding.md R63, R68 steps (1) to (3)) -/

/-- The decoder serves the request by this row: it answers what the row's mask and payload kinds say, and an operation
it reads from a request the row admits is encoded as that request. -/
def ServedBy (row : OpRow) (r : Request) : Prop :=
  ∃ i, decode r = checkRow (row.selects r.cmd) (row.unusedEmpty r) i ∧ (row.admits r = true → encode i = r)

/-- The row's mask covers a field that its pattern has zero, and `w` can only be `word`, which the row selects, when its
own field is zero: then the row selects `w` exactly when that field is zero. -/
theorem selects_eq_fieldZero {row : OpRow} {w word : Command} {start len : Nat}
    (hmask : row.mask.extractLsb' start len = BitVec.allOnes len)
    (hpattern : row.pattern.extractLsb' start len = 0#len)
    (hword : (w.extractLsb' start len == 0#len) = true → w = word) (hsel : word &&& row.mask = row.pattern) :
    row.selects w = (w.extractLsb' start len == 0#len) := by
  refine Bool.eq_iff_iff.mpr ⟨fun h => ?_, fun h => beq_iff_eq.mpr (hword h ▸ hsel)⟩
  have hfield := congrArg (BitVec.extractLsb' start len) (beq_iff_eq.mp h)
  rw [BitVec.extractLsb'_and, hmask, BitVec.and_allOnes, hpattern] at hfield
  exact beq_iff_eq.mpr hfield

section Rows

variable {row : OpRow} {r : Request} {i : Instr} {op : Byte}
  (ha : payloadWellFormed row.payloadA r.a = true → (encode i).a = r.a)
  (hb : payloadWellFormed row.payloadB r.b = true → (encode i).b = r.b)

include ha hb

/-- What a row has to show, whatever its format: its reserved field is the one its mask covers, and with that field
zero the word and the payloads are read in full. -/
theorem servedBy_of_reserved {start len : Nat} (hmask : row.mask.extractLsb' start len = BitVec.allOnes len)
    (hpattern : row.pattern.extractLsb' start len = 0#len)
    (hdec : decode r = checkRow (r.cmd.extractLsb' start len == 0#len) (row.unusedEmpty r) i)
    (hword : (r.cmd.extractLsb' start len == 0#len) = true → r.cmd = (encode i).cmd)
    (hsel : (encode i).cmd &&& row.mask = row.pattern) : ServedBy row r := by
  have hselects := selects_eq_fieldZero hmask hpattern hword hsel
  refine ⟨i, hselects ▸ hdec, fun hadmits => ?_⟩
  simp only [OpRow.admits, Bool.and_eq_true] at hadmits
  obtain ⟨⟨hcmd, hkindA⟩, hkindB⟩ := hadmits
  exact (Request.mk.injEq ..).mpr ⟨(hword (hselects ▸ hcmd)).symm, ha hkindA, hb hkindB⟩

variable (hop : opcodeField r.cmd = op) (hpattern : row.pattern = commandOf op 0#8 0#8)

include hop hpattern

theorem servedBy_formatZ (hmask : row.mask = 0xFFFFFFFF#32) (hcmd : (encode i).cmd = commandOf op 0#8 0#8)
    (hdec : decode r = checkRow (zeroZ r.cmd) (row.unusedEmpty r) i) : ServedBy row r :=
  servedBy_of_reserved ha hb (hmask ▸ rfl) (hpattern ▸ beq_iff_eq.mp (zeroZ_commandOf op)) hdec
    (fun h => hcmd ▸ eq_commandOf_of_zeroZ hop h) (by rw [hcmd, hmask, hpattern, selects_formatZ])

theorem servedBy_formatX (hmask : row.mask = 0xFF00FFFF#32) (hcmd : (encode i).cmd = commandOf op (fieldA r.cmd) 0#8)
    (hdec : decode r = checkRow (zeroX r.cmd) (row.unusedEmpty r) i) : ServedBy row r :=
  servedBy_of_reserved ha hb (hmask ▸ rfl) (hpattern ▸ beq_iff_eq.mp (zeroX_commandOf op 0#8)) hdec
    (fun h => hcmd ▸ eq_commandOf_of_zeroX hop h) (by rw [hcmd, hmask, hpattern, selects_formatX])

theorem servedBy_formatXY (hmask : row.mask = 0xFF0000FF#32)
    (hcmd : (encode i).cmd = commandOf op (fieldA r.cmd) (fieldB r.cmd))
    (hdec : decode r = checkRow (zeroXY r.cmd) (row.unusedEmpty r) i) : ServedBy row r :=
  servedBy_of_reserved ha hb (hmask ▸ rfl) (hpattern ▸ beq_iff_eq.mp (zeroXY_commandOf op 0#8 0#8)) hdec
    (fun h => hcmd ▸ eq_commandOf_of_zeroXY hop h) (by rw [hcmd, hmask, hpattern, selects_formatXY])

end Rows

/-- Each row of the opcode map serves the requests of its opcode. -/
theorem servedBy_of_opcode {row : OpRow} {r : Request} (hrow : row ∈ opRows)
    (hop : opcodeField row.pattern = opcodeField r.cmd) : ServedBy row r := by
  simp only [opRows, List.mem_cons, List.not_mem_nil, or_false] at hrow
  obtain rfl | rfl | rfl | rfl | rfl | rfl | rfl | rfl | rfl | rfl | rfl | rfl | rfl | rfl | rfl | rfl := hrow
  · exact servedBy_formatZ (i := .init) eq_nil_of_unused eq_nil_of_unused
      hop.symm rfl rfl rfl (by rw [decode, ← hop]; rfl)
  · exact servedBy_of_reserved (i := .expl (fieldIdx r.cmd)) (start := 16) (len := 8) eq_nil_of_unused eq_nil_of_unused
      rfl rfl (by rw [decode, ← hop]; rfl) (eq_idx_of_zeroI hop.symm) (selects_formatI _)
  · exact servedBy_formatX (i := .logl (fieldA r.cmd)) eq_nil_of_unused eq_nil_of_unused
      hop.symm rfl rfl rfl (by rw [decode, ← hop]; rfl)
  · exact servedBy_formatXY (i := .gfadd (fieldA r.cmd) (fieldB r.cmd)) eq_nil_of_unused eq_nil_of_unused
      hop.symm rfl rfl rfl (by rw [decode, ← hop]; rfl)
  · exact servedBy_formatXY (i := .gfsub (fieldA r.cmd) (fieldB r.cmd)) eq_nil_of_unused eq_nil_of_unused
      hop.symm rfl rfl rfl (by rw [decode, ← hop]; rfl)
  · exact servedBy_formatXY (i := .gfmul (fieldA r.cmd) (fieldB r.cmd)) eq_nil_of_unused eq_nil_of_unused
      hop.symm rfl rfl rfl (by rw [decode, ← hop]; rfl)
  · exact servedBy_formatXY (i := .gfdiv (fieldA r.cmd) (fieldB r.cmd)) eq_nil_of_unused eq_nil_of_unused
      hop.symm rfl rfl rfl (by rw [decode, ← hop]; rfl)
  · exact servedBy_formatZ (i := .pmul (readBytes r.a) (readBytes r.b)) byteSeq_readBytes byteSeq_readBytes
      hop.symm rfl rfl rfl (by rw [decode, ← hop]; rfl)
  · exact servedBy_formatZ (i := .pdivmod (readBytes r.a) (readBytes r.b)) byteSeq_readBytes byteSeq_readBytes
      hop.symm rfl rfl rfl (by rw [decode, ← hop]; rfl)
  · exact servedBy_formatX (i := .genpoly (fieldA r.cmd)) eq_nil_of_unused eq_nil_of_unused
      hop.symm rfl rfl rfl (by rw [decode, ← hop]; rfl)
  · exact servedBy_formatX (i := .rsenc (fieldA r.cmd) (readBytes r.a)) byteSeq_readBytes eq_nil_of_unused
      hop.symm rfl rfl rfl (by rw [decode, ← hop]; rfl)
  · exact servedBy_formatZ (i := .bsenc r.a) (fun _ => rfl) eq_nil_of_unused
      hop.symm rfl rfl rfl (by rw [decode, ← hop]; rfl)
  · exact servedBy_formatZ (i := .bpack (readBits r.a)) bitSeq_readBits eq_nil_of_unused
      hop.symm rfl rfl rfl (by rw [decode, ← hop]; rfl)
  · exact servedBy_formatZ (i := .bunpack (readBytes r.a)) byteSeq_readBytes eq_nil_of_unused
      hop.symm rfl rfl rfl (by rw [decode, ← hop]; rfl)
  · exact servedBy_formatX (i := .mxasm (fieldA r.cmd) (readBits r.a)) bitSeq_readBits eq_nil_of_unused
      hop.symm rfl rfl rfl (by rw [decode, ← hop]; rfl)
  · exact servedBy_formatXY (i := .qrenc (fieldA r.cmd) (fieldB r.cmd) r.a) (fun _ => rfl) eq_nil_of_unused
      hop.symm rfl rfl rfl (by rw [decode, ← hop]; rfl)

/-- An opcode that no row has is refused (30_encoding.md R64 (a)). -/
theorem decode_unassigned {r : Request} (h : opcodeField r.cmd ∉ opRows.map fun row => opcodeField row.pattern) :
    decode r = .error .unassignedOpcode := by
  simp only [decode]
  split
  case h_17 => rfl
  all_goals
    rename_i hop
    exact absurd (hop ▸ by decide) h

/-! ### Rows and legal requests (30_encoding.md R64) -/

/-- A row selects words of its opcode only. -/
theorem opcodeField_of_selects {row : OpRow} (hrow : row ∈ opRows) {w : Command} (h : row.selects w = true) :
    opcodeField row.pattern = opcodeField w := by
  have hmask : ∀ row ∈ opRows, opcodeField row.mask = BitVec.allOnes 8 := by decide
  rw [← beq_iff_eq.mp h, opcodeField, BitVec.extractLsb'_and, ← opcodeField, ← opcodeField, hmask row hrow,
    BitVec.and_allOnes]

theorem row_eq_of_opcode : ∀ row ∈ opRows, ∀ row' ∈ opRows,
    opcodeField row.pattern = opcodeField row'.pattern → row = row' := by decide

theorem selects_of_admits {row : OpRow} {r : Request} (h : row.admits r = true) : row.selects r.cmd = true := by
  simp only [OpRow.admits, Bool.and_eq_true] at h
  obtain ⟨⟨hselects, -⟩, -⟩ := h
  exact hselects

/-- A request decodes exactly when it is legal. -/
theorem legal_iff_decodes (r : Request) : r.legal = true ↔ ∃ i, decode r = .ok i := by
  simp only [Request.legal, List.any_eq_true, Bool.and_eq_true]
  constructor
  · rintro ⟨row, hrow, hselects, hunused⟩
    obtain ⟨i, hdec, -⟩ := servedBy_of_opcode hrow (opcodeField_of_selects hrow hselects)
    exact ⟨i, by rw [hdec, hselects, hunused, checkRow_ok_iff]; exact ⟨rfl, rfl, rfl⟩⟩
  · rintro ⟨i, hi⟩
    by_cases hop : opcodeField r.cmd ∈ opRows.map fun row => opcodeField row.pattern
    · obtain ⟨row, hrow, hop⟩ := List.mem_map.mp hop
      obtain ⟨j, hdec, -⟩ := servedBy_of_opcode hrow hop
      obtain ⟨hselects, hunused, -⟩ := checkRow_ok_iff.mp (hdec.symm.trans hi)
      exact ⟨row, hrow, hselects, hunused⟩
    · rw [decode_unassigned hop] at hi
      contradiction

/-- Settles O2: the row that admits the request is the one that serves it. -/
theorem encodingADecodedRequestGivesItBack : Obligations.EncodingADecodedRequestGivesItBack := by
  intro r i hwf hi
  obtain ⟨row, hrow, hadmits⟩ := List.any_eq_true.mp hwf
  have hop := opcodeField_of_selects hrow (selects_of_admits hadmits)
  obtain ⟨j, hdec, hencode⟩ := servedBy_of_opcode hrow hop
  obtain ⟨-, -, rfl⟩ := checkRow_ok_iff.mp (hdec.symm.trans hi)
  exact hencode hadmits

/-- Each of 30_encoding.md R64 (a), (b), (c) makes the decoder refuse. -/
theorem decode_error_of_illegal {r : Request}
    (h : (opcodeField r.cmd ∉ opRows.map fun row => opcodeField row.pattern) ∨
      (∃ row ∈ opRows, opcodeField row.pattern = opcodeField r.cmd ∧ row.selects r.cmd = false) ∨
      (∃ row ∈ opRows, row.selects r.cmd = true ∧ row.unusedEmpty r = false)) : ∃ e, decode r = .error e := by
  obtain hop | ⟨row, hrow, hop, hselects⟩ | ⟨row, hrow, hselects, hunused⟩ := h
  · exact ⟨_, decode_unassigned hop⟩
  · obtain ⟨i, hdec, -⟩ := servedBy_of_opcode hrow hop
    exact ⟨.nonzeroReserved, by rw [hdec, hselects]; rfl⟩
  · obtain ⟨i, hdec, -⟩ := servedBy_of_opcode hrow (opcodeField_of_selects hrow hselects)
    exact ⟨.unusedPayload, by rw [hdec, hselects, hunused]; rfl⟩

/-- Settles O3: a row selects words of its own opcode only, no opcode has two rows, and the row of an opcode decides what
the decoder answers. -/
theorem everyRequestSelectsOneRowOrIsIllegal : Obligations.EveryRequestSelectsOneRowOrIsIllegal := by
  refine ⟨fun w row hrow row' hrow' h h' => ?_, legal_iff_decodes, fun s r rest hq hillegal => ?_⟩
  · exact row_eq_of_opcode row hrow row' hrow'
      ((opcodeField_of_selects hrow h).trans (opcodeField_of_selects hrow' h').symm)
  · obtain ⟨e, hdec⟩ := decode_error_of_illegal hillegal
    exact step_illegal hq hdec

end Sys2Proof.Proofs

/-! SUPPORT. The order of the checks (30_encoding.md R68 (4) to (7)): every answer is the operation's own rule behind the
payload check, the READY check and the result check, with the statements on READY and SEQ_MAX that follow from it. -/

namespace Sys2Proof.Proofs

open Sys2Proof.Machine Sys2Proof.Safety

/-! ### An answer in stages -/

/-- What the operation's own checks and its computation give, before the result is held against SEQ_MAX
(30_encoding.md R68 (6)). -/
def ruleAnswer (i : Instr) (t : Tables) (p : Params) : Answer :=
  match i with
  | .init => .ok ([], [])
  | .expl idx => explAnswer t idx
  | .logl x => loglAnswer t x
  | .gfadd x y => .ok (oneByte (gfAdd x y))
  | .gfsub x y => .ok (oneByte (gfSub x y))
  | .gfmul x y => .ok (oneByte (gfMul t x y))
  | .gfdiv x y => (gfDiv t x y).map oneByte
  | .pmul a b => pmulAnswer t a b
  | .pdivmod a b => pdivmodAnswer t a b
  | .genpoly n => .ok (bytesResult (generatorOf t n))
  | .rsenc n m => (rsEncode t m n).map bytesResult
  | .bsenc text => (dataEncode text).map bitsResult
  | .bpack bits => .ok (bytesResult (bytePack p.packTail bits))
  | .bunpack bytes => .ok (bitsResult (bitUnpack bytes))
  | .mxasm v bits => checkVersion p v (.ok (bitsResult (createMatrix p v.toNat bits)))
  | .qrenc v n text => checkVersion p v ((pipelineBits t p v n text).map bitsResult)

/-- Steps (5) and (7) of 30_encoding.md R68 around the operation's rule, step (6). -/
def checkedAnswer (i : Instr) (t : Tables) (ready : Bool) (p : Params) : Answer :=
  needTables (!ReadsTables i || ready) (capResult p (ruleAnswer i t p))

/-- Step (4) of 30_encoding.md R68 for each payload, and the other steps behind it. -/
theorem answerOf_eq_stages (i : Instr) (t : Tables) (ready : Bool) (p : Params) :
    answerOf i t ready p = (payloadLengths i).foldr (capPayload p) (checkedAnswer i t ready p) := by
  cases i with
  | init => exact (capResult_of_fits (Params.fits_zero p) (Params.fits_zero p)).symm
  | _ => rfl

theorem fits_of_unbounded {p : Params} (h : p.seqMax = none) (n : Nat) : Params.fits p n = true := by
  rw [Params.fits, h]

/-- The payload check comes first: one payload beyond SEQ_MAX decides the answer. -/
theorem foldr_capPayload_of_not_fits {p : Params} {ns : List Nat} {n : Nat} (hn : n ∈ ns)
    (h : Params.fits p n = false) (ans : Answer) : ns.foldr (capPayload p) ans = .error .capacityExceeded := by
  induction ns with
  | nil => contradiction
  | cons k ns ih =>
    rw [List.foldr_cons]
    obtain rfl | hn := List.mem_cons.mp hn
    · exact capPayload_of_not_fits h _
    · rw [ih hn, capPayload, ite_self]

theorem foldr_capPayload_of_fits {p : Params} {ns : List Nat} (h : ∀ n ∈ ns, Params.fits p n = true) (ans : Answer) :
    ns.foldr (capPayload p) ans = ans := by
  induction ns with
  | nil => rfl
  | cons k ns ih =>
    obtain ⟨hk, hns⟩ := List.forall_mem_cons.mp h
    rw [List.foldr_cons, ih hns, capPayload_of_fits hk]

/-- The payload checks pass the answer on, or refuse with CapacityExceeded when SEQ_MAX is bounded. -/
theorem answerOf_cases (i : Instr) (t : Tables) (ready : Bool) (p : Params) :
    answerOf i t ready p = checkedAnswer i t ready p ∨
      (answerOf i t ready p = .error .capacityExceeded ∧ p.seqMax ≠ none) := by
  rw [answerOf_eq_stages]
  by_cases h : ∀ n ∈ payloadLengths i, Params.fits p n = true
  · exact .inl (foldr_capPayload_of_fits h _)
  · simp only [not_forall, Bool.not_eq_true] at h
    obtain ⟨n, hn, hfit⟩ := h
    have hbounded : p.seqMax ≠ none := fun hnone => Bool.noConfusion ((fits_of_unbounded hnone n).symm.trans hfit)
    exact .inr ⟨foldr_capPayload_of_not_fits hn hfit _, hbounded⟩

theorem answerOf_of_fits {i : Instr} {p : Params} (h : ∀ n ∈ payloadLengths i, Params.fits p n = true) (t : Tables)
    (ready : Bool) : answerOf i t ready p = checkedAnswer i t ready p := by
  rw [answerOf_eq_stages, foldr_capPayload_of_fits h]

/-! ### What an answer tells of its stages -/

theorem needTables_ok_inv {ready : Bool} {ans : Answer} {r : Seq × Seq} (h : needTables ready ans = .ok r) :
    ans = .ok r := by
  cases ready with
  | false => contradiction
  | true => exact h

theorem needTables_error_inv {ready : Bool} {ans : Answer} {e : Status} (h : needTables ready ans = .error e) :
    (e = .tablesNotReady ∧ ready = false) ∨ ans = .error e := by
  cases ready with
  | false => exact .inl ⟨(Except.error.inj h).symm, rfl⟩
  | true => exact .inr h

theorem capResult_error_inv {p : Params} {ans : Answer} {e : Status} (h : capResult p ans = .error e) :
    (e = .capacityExceeded ∧ p.seqMax ≠ none) ∨ ans = .error e := by
  cases ans with
  | error e' => exact .inr h
  | ok r =>
    obtain ⟨r0, r1⟩ := r
    simp only [capResult] at h
    split at h
    · contradiction
    · rename_i hfit
      refine .inl ⟨(Except.error.inj h).symm, fun hnone => hfit ?_⟩
      rw [fits_of_unbounded hnone, fits_of_unbounded hnone, Bool.and_self]

theorem answerOf_ok_inv {i : Instr} {t : Tables} {ready : Bool} {p : Params} {r : Seq × Seq}
    (h : answerOf i t ready p = .ok r) :
    ruleAnswer i t p = .ok r ∧ Params.fits p r.1.length = true ∧ Params.fits p r.2.length = true := by
  obtain hstages | ⟨herror, -⟩ := answerOf_cases i t ready p
  · exact capResult_ok_inv (needTables_ok_inv (hstages.symm.trans h))
  · cases herror.symm.trans h

/-- A failure is the payload or result check's, the READY check's, or the operation's own. -/
theorem answerOf_error_inv {i : Instr} {t : Tables} {ready : Bool} {p : Params} {e : Status}
    (h : answerOf i t ready p = .error e) :
    (e = .capacityExceeded ∧ p.seqMax ≠ none) ∨ (e = .tablesNotReady ∧ ReadsTables i = true ∧ ready = false) ∨
      ruleAnswer i t p = .error e := by
  obtain hstages | ⟨herror, hbounded⟩ := answerOf_cases i t ready p
  · obtain ⟨he, hgate⟩ | hresult := needTables_error_inv (hstages.symm.trans h)
    · simp only [Bool.or_eq_false_iff, Bool.not_eq_false'] at hgate
      exact .inr (.inl ⟨he, hgate⟩)
    · exact (capResult_error_inv hresult).imp_right .inr
  · exact .inl ⟨Except.error.inj (h.symm.trans herror), hbounded⟩

/-! ### The failures of the operations' own checks -/

/-- If this fails, then with a status other than those of the READY check and the SEQ_MAX checks. -/
def OwnChecksOnly {α : Type} : Except Status α → Prop
  | .ok _ => True
  | .error e => e ≠ .tablesNotReady ∧ e ≠ .capacityExceeded

@[simp] theorem ownChecksOnly_ok {α : Type} (a : α) : OwnChecksOnly (.ok a) := trivial

@[simp] theorem ownChecksOnly_error {α : Type} (e : Status) :
    OwnChecksOnly (.error e : Except Status α) ↔ e ≠ .tablesNotReady ∧ e ≠ .capacityExceeded := Iff.rfl

@[simp] theorem ownChecksOnly_map {α β : Type} (f : α → β) (ans : Except Status α) :
    OwnChecksOnly (ans.map f) ↔ OwnChecksOnly ans := by
  cases ans <;> rfl

theorem gfDiv_ownChecksOnly (t : Tables) (x y : Byte) : OwnChecksOnly (gfDiv t x y) := by
  unfold gfDiv
  split_ifs <;> simp

theorem dataEncode_ownChecksOnly (text : List CodePoint) : OwnChecksOnly (dataEncode text) := by
  unfold dataEncode
  split_ifs <;> simp

theorem rsEncode_ownChecksOnly (t : Tables) (message : List Byte) (nsym : Byte) :
    OwnChecksOnly (rsEncode t message nsym) := by
  unfold rsEncode
  split_ifs <;> simp

theorem checkVersion_ownChecksOnly {p : Params} {version : Byte} {ans : Answer} (h : OwnChecksOnly ans) :
    OwnChecksOnly (checkVersion p version ans) := by
  unfold checkVersion
  split_ifs
  · simp
  · simp
  · exact h

theorem pipelineBits_ownChecksOnly (t : Tables) (p : Params) (version nsym : Byte) (text : List CodePoint) :
    OwnChecksOnly (pipelineBits t p version nsym text) := by
  unfold pipelineBits
  split
  next e hbits => exact hbits ▸ dataEncode_ownChecksOnly text
  next bits hbits =>
    have hprotect : OwnChecksOnly (protectBits t p.packTail nsym bits) :=
      (ownChecksOnly_map _ _).mpr (rsEncode_ownChecksOnly _ _ _)
    split
    next e hguarded => exact hguarded ▸ hprotect
    next guarded hguarded => trivial

theorem ruleAnswer_ownChecksOnly (i : Instr) (t : Tables) (p : Params) : OwnChecksOnly (ruleAnswer i t p) := by
  cases i with
  | expl idx => simp only [ruleAnswer, explAnswer]; split_ifs <;> simp
  | logl x => simp only [ruleAnswer, loglAnswer]; split_ifs <;> simp
  | gfdiv x y => exact (ownChecksOnly_map _ _).mpr (gfDiv_ownChecksOnly t x y)
  | pmul a b => simp only [ruleAnswer, pmulAnswer]; split_ifs <;> simp
  | pdivmod a b => simp only [ruleAnswer, pdivmodAnswer]; split_ifs <;> simp
  | rsenc n m => exact (ownChecksOnly_map _ _).mpr (rsEncode_ownChecksOnly t m n)
  | bsenc text => exact (ownChecksOnly_map _ _).mpr (dataEncode_ownChecksOnly text)
  | mxasm v bits => exact checkVersion_ownChecksOnly trivial
  | qrenc v n text =>
    exact checkVersion_ownChecksOnly ((ownChecksOnly_map _ _).mpr (pipelineBits_ownChecksOnly t p v n text))
  | _ => trivial

theorem ruleAnswer_ne_error {i : Instr} {t : Tables} {p : Params} {e : Status} (h : ruleAnswer i t p = .error e) :
    e ≠ .tablesNotReady ∧ e ≠ .capacityExceeded := by
  have hown := ruleAnswer_ownChecksOnly i t p
  rwa [h] at hown

/-! ### READY and SEQ_MAX (30_encoding.md R65, R68) -/

/-- The response exec appends is the operation's answer, INIT's included. -/
theorem eq_response_of_exec {i : Instr} {s t : State} {r : Response} (h : exec i s = .next t)
    (hr : t.responses = s.responses ++ [r]) : r = Answer.response (answerOf i s.tables s.ready s.params) := by
  rw [exec_eq] at h
  obtain rfl := Host.Outcome.next.inj h
  exact (List.singleton_inj.mp (List.append_cancel_left hr)).symm

theorem answer_of_response_error {ans : Answer} {e : Status} (h : (Answer.response ans).status = e) (he : e ≠ .ok) :
    ans = .error e := by
  cases ans with
  | error e' => exact congrArg Except.error h
  | ok r => exact absurd h.symm he

theorem answers_error {i : Instr} {s : State} {e : Status} (hi : i ≠ .init)
    (h : answerOf i s.tables s.ready s.params = .error e) : Answers i s (failure e) := by
  have hanswers := answers_of_ne_init s hi
  rwa [h] at hanswers

/-- Settles O14: a table reader stops at the READY check, and no other check of any operation has that status. -/
theorem tableReadersWaitForInit : Obligations.TableReadersWaitForInit := by
  refine ⟨fun i s hreads hready hwithin => ?_, fun i s t r hreads hexec hr hstatus => ?_⟩
  · refine answers_error (by rintro rfl; contradiction) ?_
    rw [answerOf_of_fits fun n hn => fits_of_within (hwithin n hn), checkedAnswer, hreads, hready]
    rfl
  · rw [eq_response_of_exec hexec hr] at hstatus
    obtain ⟨he, -⟩ | ⟨-, hreads', -⟩ | hrule := answerOf_error_inv (answer_of_response_error hstatus (by decide))
    · contradiction
    · rw [hreads] at hreads'
      contradiction
    · exact (ruleAnswer_ne_error hrule).1 rfl

/-- Every response is within SEQ_MAX: a failure's results are empty, and a success has passed the result check. -/
theorem response_fits (i : Instr) (t : Tables) (ready : Bool) (p : Params) :
    Params.fits p (Answer.response (answerOf i t ready p)).r0.length = true ∧
      Params.fits p (Answer.response (answerOf i t ready p)).r1.length = true := by
  cases h : answerOf i t ready p with
  | error e => exact ⟨Params.fits_zero p, Params.fits_zero p⟩
  | ok r => exact (answerOf_ok_inv h).2

/-- Settles O15: the payload check is the first stage, the result check the last, and no other stage has the status. -/
theorem sequencesStayWithinSeqMax : Obligations.SequencesStayWithinSeqMax := by
  refine ⟨fun i s n hn hbeyond => ?_, fun i s t r hexec hr _ => ?_, fun i s t r hnone hexec hr hstatus => ?_⟩
  · refine answers_error (by rintro rfl; contradiction) ?_
    rw [answerOf_eq_stages, foldr_capPayload_of_not_fits hn (not_fits_of_beyond hbeyond)]
  · obtain rfl := eq_response_of_exec hexec hr
    exact (response_fits i _ _ _).imp (Params.fits_iff _ _).mp (Params.fits_iff _ _).mp
  · rw [eq_response_of_exec hexec hr] at hstatus
    obtain ⟨-, hbounded⟩ | ⟨he, -⟩ | hrule := answerOf_error_inv (answer_of_response_error hstatus (by decide))
    · exact hbounded hnone
    · contradiction
    · exact (ruleAnswer_ne_error hrule).2 rfl

end Sys2Proof.Proofs

/-! SUPPORT. The length of the result of each rule whose own checks pass, and the refusal of a result beyond SEQ_MAX
(30_encoding.md R68 (7), 60_exceptions.md R183 (5)). -/

namespace Sys2Proof.Proofs

open Sys2Proof.Machine Sys2Proof.Safety

/-! ### The lengths of results -/

theorem polyMul_length (t : Tables) (p q : List Byte) : (polyMul t p q).length = p.length + (q.length - 1) := by
  induction p with
  | nil => rw [polyMul, zeros_length, List.length_nil, Nat.zero_add]
  | cons c p ih => rw [polyMul_cons_length, ih, List.length_cons, Nat.add_right_comm]

theorem generatorPoly_length (t : Tables) (nsym : Nat) (h : nsym ≤ 255) : (generatorPoly t nsym h).length = nsym + 1 := by
  induction nsym with
  | zero => rfl
  | succ n ih => rw [generatorPoly, polyMul_length, ih]; rfl

theorem generatorOf_length (t : Tables) (nsym : Byte) : (generatorOf t nsym).length = nsym.toNat + 1 :=
  generatorPoly_length t _ _

/-- Each leading position takes one entry off the working copy. -/
theorem polyDivLoop_snd_length (t : Tables) (tail : List Byte) (n : Nat) (w : List Byte) :
    (polyDivLoop t tail n w).2.length = w.length - n := by
  induction n generalizing w with
  | zero => rfl
  | succ n ih =>
    cases w with
    | nil => simp [polyDivLoop]
    | cons coef w =>
      simp only [polyDivLoop, ih, List.length_cons, Nat.add_sub_add_right]
      split_ifs
      · rfl
      · rw [xorFront_length]

theorem exists_gfDiv {y : Byte} (hy : y ≠ 0#8) (t : Tables) (x : Byte) : ∃ v, gfDiv t x y = .ok v := by
  rw [gfDiv, dif_neg hy]
  split_ifs
  · exact ⟨_, rfl⟩
  · exact ⟨_, rfl⟩

theorem exists_rsEncode {message : List Byte} {nsym : Byte} (h : message.length + nsym.toNat ≤ 255) (t : Tables) :
    ∃ codeword, rsEncode t message nsym = .ok codeword ∧ codeword.length = message.length + nsym.toNat := by
  refine ⟨_, if_neg (Nat.not_lt.mpr h), ?_⟩
  rw [List.length_append, polyDivMod, polyDivLoop_snd_length, generatorOf_length, List.length_append, zeros_length]
  omega

theorem exists_dataEncode {text : List CodePoint} (hlen : text.length ≤ 255) (hchars : ∀ c ∈ text, c.toNat ≤ 255) :
    ∃ bits, dataEncode text = .ok bits ∧ bits.length = 12 + 8 * text.length := by
  have hany : ¬ (text.any fun c => decide (c.toNat > 255)) = true := by
    simp only [List.any_eq_true, decide_eq_true_eq, not_exists, not_and]
    exact fun c hc => Nat.not_lt.mpr (hchars c hc)
  refine ⟨_, (if_neg (Nat.not_lt.mpr hlen)).trans (if_neg hany), ?_⟩
  have hflat : (text.flatMap fun c => bits8 (c.setWidth 8)) = bitUnpack (readBytes text) := by
    rw [bitUnpack, readBytes, List.flatMap_map]
  simp only [List.length_append, hflat, bitUnpack_length, readBytes, List.length_map, bits8_length]
  rw [modeIndicator]
  rfl

theorem createMatrix_length (p : Params) (version : Nat) (bits : List Bit) :
    (createMatrix p version bits).length = (4 * version + 17) * (4 * version + 17) := by
  rw [createMatrix, placeBits_length, rowMajor_length, matrixSize_eq]

theorem checkVersion_of_admitted {p : Params} {version : Byte} (h : Admitted p version.toNat) (ans : Answer) :
    checkVersion p version ans = ans := by
  obtain ⟨hpos, halign⟩ := h
  have hfit : ¬ (version.toNat > 1 ∧ alignmentFits p version.toNat = false) := by
    rintro ⟨hgt, hbad⟩
    exact Bool.noConfusion ((halign hgt).symm.trans hbad)
  rw [checkVersion, if_neg (by omega), if_neg hfit]

theorem exists_pipelineBits {text : List CodePoint} {nsym : Byte} (hchars : ∀ c ∈ text, c.toNat ≤ 255)
    (hlen : text.length + 2 + nsym.toNat ≤ 255) (t : Tables) (p : Params) (version : Byte) :
    ∃ guarded, pipelineBits t p version nsym text = .ok (createMatrix p version.toNat guarded) := by
  obtain ⟨bits, hbits, hbitslen⟩ := exists_dataEncode (by omega) hchars
  have hmessage : (bytePack p.packTail bits).length + nsym.toNat ≤ 255 := by
    rw [bytePack_length, hbitslen]
    omega
  obtain ⟨codeword, hcodeword, -⟩ := exists_rsEncode hmessage t
  refine ⟨bits ++ bitUnpack (codeword.drop (bytePack p.packTail bits).length), ?_⟩
  simp only [pipelineBits, hbits, protectBits, hcodeword]
  rfl

/-! ### Results beyond SEQ_MAX -/

/-- With the earlier checks passed, a result of the operation's rule that is longer than SEQ_MAX is refused. -/
theorem answers_of_result_beyond {i : Instr} {s : State} {r : Seq × Seq}
    (hrule : ruleAnswer i s.tables s.params = .ok r) (hbeyond : BeyondSeqMax s r.1.length)
    (hwithin : ∀ n ∈ payloadLengths i, WithinSeqMax s n) (hready : (!ReadsTables i || s.ready) = true) :
    Answers i s (failure .capacityExceeded) := by
  have hi : i ≠ .init := by
    rintro rfl
    obtain rfl := Except.ok.inj hrule
    obtain ⟨m, -, hlt⟩ := hbeyond
    exact Nat.not_lt_zero m hlt
  refine answers_error hi ?_
  rw [answerOf_of_fits fun n hn => fits_of_within (hwithin n hn), checkedAnswer, hready, needTables_true, hrule]
  exact capResult_of_beyond_r0 hbeyond

/-- Settles O49: for each operation, its own checks pass and the result of its rule has the stated length. -/
theorem resultsBeyondSeqMaxAreRefused : Obligations.ResultsBeyondSeqMaxAreRefused := by
  intro s
  refine ⟨?_, ?_, ?_, ?_, ?_, ?_, ?_, ?_, ?_⟩
  · intro x y hbeyond
    exact ⟨answers_of_result_beyond rfl hbeyond nofun rfl, answers_of_result_beyond rfl hbeyond nofun rfl⟩
  · intro hready hbeyond
    refine ⟨fun idx hidx => ?_, fun x hx => ?_, fun x y => ?_, fun x y hy => ?_⟩
    · exact answers_of_result_beyond (dif_pos hidx) hbeyond nofun hready
    · exact answers_of_result_beyond (dif_neg hx) hbeyond nofun hready
    · exact answers_of_result_beyond rfl hbeyond nofun hready
    · obtain ⟨v, hv⟩ := exists_gfDiv hy s.tables x
      exact answers_of_result_beyond (congrArg (Except.map oneByte) hv) hbeyond nofun hready
  · intro hready p q hp hq hp0 hq0 hbeyond
    have hnonempty : ¬ (p.length = 0 ∨ q.length = 0) :=
      not_or.mpr ⟨mt List.length_eq_zero_iff.mp hp0, mt List.length_eq_zero_iff.mp hq0⟩
    have hwithin : ∀ n ∈ [p.length, q.length], WithinSeqMax s n :=
      List.forall_mem_cons.mpr ⟨hp, List.forall_mem_singleton.mpr hq⟩
    have hqpos : 0 < q.length := List.length_pos_iff.mpr hq0
    refine answers_of_result_beyond (if_neg hnonempty) ?_ hwithin hready
    rwa [bytesResult, byteSeq_length, polyMul_length, ← Nat.add_sub_assoc hqpos]
  · intro hready nsym hbeyond
    refine answers_of_result_beyond rfl ?_ nofun hready
    rwa [bytesResult, byteSeq_length, generatorOf_length]
  · intro hready nsym message hmessage hlen hbeyond
    obtain ⟨codeword, hcodeword, hcodelen⟩ := exists_rsEncode hlen s.tables
    refine answers_of_result_beyond (congrArg (Except.map bytesResult) hcodeword) ?_
      (List.forall_mem_singleton.mpr hmessage) hready
    rwa [bytesResult, byteSeq_length, hcodelen]
  · intro text htext hlen hchars hbeyond
    obtain ⟨bits, hbits, hbitslen⟩ := exists_dataEncode hlen hchars
    refine answers_of_result_beyond (congrArg (Except.map bitsResult) hbits) ?_
      (List.forall_mem_singleton.mpr htext) rfl
    rwa [bitsResult, bitSeq_length, hbitslen]
  · intro bytes hbytes hbeyond
    refine answers_of_result_beyond rfl ?_ (List.forall_mem_singleton.mpr hbytes) rfl
    rwa [bitsResult, bitSeq_length, bitUnpack_length]
  · intro version bits hbits hadmitted hbeyond
    refine answers_of_result_beyond (checkVersion_of_admitted hadmitted _) ?_ (List.forall_mem_singleton.mpr hbits) rfl
    rwa [bitsResult, bitSeq_length, createMatrix_length]
  · intro hready version nsym text htext hadmitted hchars hlen hbeyond
    obtain ⟨guarded, hguarded⟩ := exists_pipelineBits hchars hlen s.tables s.params version
    refine answers_of_result_beyond ((checkVersion_of_admitted hadmitted _).trans
      (congrArg (Except.map bitsResult) hguarded)) ?_ (List.forall_mem_singleton.mpr htext) hready
    rwa [bitsResult, bitSeq_length, createMatrix_length]

end Sys2Proof.Proofs

/-! SUPPORT. Answers of operations whose checks pass, and INIT's two loops entry by entry (40_table_ops.md R100), with
the statements on the table operations that follow from them. -/

namespace Sys2Proof.Proofs

open Sys2Proof.Machine Sys2Proof.Safety

/-! ### Answers behind the READY check -/

/-- With the payload and READY checks passed, a failure of the operation's own checks is the response. -/
theorem answers_of_rule_error {i : Instr} {s : State} {e : Status} (hrule : ruleAnswer i s.tables s.params = .error e)
    (hwithin : ∀ n ∈ payloadLengths i, WithinSeqMax s n) (hready : (!ReadsTables i || s.ready) = true) :
    Answers i s (failure e) := by
  refine answers_error (by rintro rfl; contradiction) ?_
  rw [answerOf_of_fits fun n hn => fits_of_within (hwithin n hn), checkedAnswer, hready, hrule]
  rfl

/-- With every check passed, SEQ_MAX's on a result of one byte among them, that byte is the response. -/
theorem answers_of_rule_oneByte {i : Instr} {s : State} {v : Byte}
    (hrule : ruleAnswer i s.tables s.params = .ok (oneByte v)) (hone : WithinSeqMax s 1)
    (hwithin : ∀ n ∈ payloadLengths i, WithinSeqMax s n) (hready : (!ReadsTables i || s.ready) = true) :
    Answers i s (okBytes [v]) := by
  have hanswer : answerOf i s.tables s.ready s.params = .ok (oneByte v) := by
    rw [answerOf_of_fits fun n hn => fits_of_within (hwithin n hn), checkedAnswer, hready, needTables_true, hrule,
      capResult_oneByte_of_within hone]
  have hanswers := answers_of_ne_init (i := i) s (by rintro rfl; cases hrule)
  rwa [hanswer] at hanswers

/-! ### EXPL and LOGL (40_table_ops.md R101, R102) -/

/-- Settles O21: the READY check, then the bound of the index space, then the read. -/
theorem explReadsOneEntryOfExp : Obligations.ExplReadsOneEntryOfExp := by
  intro idx s
  refine ⟨fun hready => ?_, fun hready hidx => ?_, fun hready hone hidx => ?_⟩
  · exact tableReadersWaitForInit.1 _ s rfl hready nofun
  · exact answers_of_rule_error (dif_neg (Nat.not_lt.mpr hidx)) nofun hready
  · exact answers_of_rule_oneByte (dif_pos hidx) hone nofun hready

/-- Settles O22: the READY check, then the missing entry 0, then the read. -/
theorem loglReadsOneEntryOfLog : Obligations.LoglReadsOneEntryOfLog := by
  intro x s
  refine ⟨fun hready => ?_, fun hready hx => ?_, fun hready hone hx => ?_⟩
  · exact tableReadersWaitForInit.1 _ s rfl hready nofun
  · exact answers_of_rule_error (dif_pos hx) nofun hready
  · exact answers_of_rule_oneByte (dif_neg hx) hone nofun hready

/-! ### Reading a table after a write of INIT's loops -/

@[simp] theorem expAt_setExp_self (t : Tables) (i : Nat) (v : Byte) (h : i < 510) : (setExp t i v).expAt i h = v := by
  simp [setExp, Tables.expAt]

theorem expAt_setExp_of_ne (t : Tables) {i j : Nat} (v : Byte) (h : j < 510) (hij : i ≠ j) :
    (setExp t i v).expAt j h = t.expAt j h := by
  simp [setExp, Tables.expAt, hij]

@[simp] theorem logAt_setExp (t : Tables) (i : Nat) (v x : Byte) (hx : x ≠ 0#8) :
    (setExp t i v).logAt x hx = t.logAt x hx := rfl

@[simp] theorem expAt_setLog (t : Tables) (x v : Byte) (i : Nat) (h : i < 510) :
    (setLog t x v).expAt i h = t.expAt i h := rfl

@[simp] theorem logAt_setLog_self (t : Tables) (x v : Byte) (hx : x ≠ 0#8) : (setLog t x v).logAt x hx = v := by
  simp [setLog, Tables.logAt]

/-- Distinct nonzero bytes have distinct positions in LOG, which has no entry 0. -/
theorem logAt_setLog_of_ne (t : Tables) {x y : Byte} (v : Byte) (hx : x ≠ 0#8) (hy : y ≠ 0#8) (hxy : x ≠ y) :
    (setLog t x v).logAt y hy = t.logAt y hy := by
  have hpos : x.toNat - 1 ≠ y.toNat - 1 := by bv_omega
  simp [setLog, Tables.logAt, hpos]

/-- The entry INIT's second loop reads. -/
theorem expToList_getD (t : Tables) {i : Nat} (h : i < 510) : t.exp.toList.getD i 0#8 = t.expAt i h := by
  simp [Tables.expAt, h]

/-! ### INIT's loops (40_table_ops.md R100) -/

/-- INIT's loops have written what belongs to the indices below `n`: EXP[i] is x_i, and LOG[x_i] is i while i is in the
first period. -/
structure WrittenBelow (n : Nat) (t : Tables) : Prop where
  exp_eq : ∀ i (h : i < 510), i < n → t.expAt i h = generatorTerm i
  log_eq : ∀ i (hx : generatorTerm i ≠ 0#8), i < 255 → i < n → (t.logAt (generatorTerm i) hx).toNat = i

theorem writtenBelow_zero (t : Tables) : WrittenBelow 0 t where
  exp_eq _ _ hi := absurd hi (Nat.not_lt_zero _)
  log_eq _ _ _ hi := absurd hi (Nat.not_lt_zero _)

/-- Writing x_n at EXP[n] keeps the entries below n. -/
theorem WrittenBelow.setExp_expAt {n : Nat} {t : Tables} (ht : WrittenBelow n t) (i : Nat) (h : i < 510)
    (hi : i < n + 1) : (setExp t n (generatorTerm n)).expAt i h = generatorTerm i := by
  obtain hlt | rfl := Nat.lt_succ_iff_lt_or_eq.mp hi
  · rw [expAt_setExp_of_ne _ _ _ hlt.ne', ht.exp_eq i h hlt]
  · exact expAt_setExp_self ..

/-- One iteration of the first loop; LOG's earlier entries stay, since no term repeats in the first period. -/
theorem WrittenBelow.succ_of_first {n : Nat} {t : Tables} (ht : WrittenBelow n t) (hn : n < 255) :
    WrittenBelow (n + 1) (setLog (setExp t n (generatorTerm n)) (generatorTerm n) (BitVec.ofNat 8 n)) where
  exp_eq i h hi := by rw [expAt_setLog, ht.setExp_expAt i h hi]
  log_eq i hx hi hin := by
    obtain hlt | rfl := Nat.lt_succ_iff_lt_or_eq.mp hin
    · have hne : generatorTerm n ≠ generatorTerm i := fun h => hlt.ne' (generatorTerm_inj hn hi h)
      rw [logAt_setLog_of_ne _ _ (generatorTerm_ne_zero n) hx hne, logAt_setExp, ht.log_eq i hx hi hlt]
    · rw [logAt_setLog_self, BitVec.toNat_ofNat, Nat.mod_eq_of_lt (by omega)]

/-- One iteration of the second loop: the entry copied is x_(n-255), which is x_n by the period. -/
theorem WrittenBelow.succ_of_copy {n : Nat} {t : Tables} (ht : WrittenBelow n t) (hfirst : 255 ≤ n) (hn : n < 510) :
    WrittenBelow (n + 1) (setExp t n (t.exp.toList.getD (n - 255) 0#8)) := by
  have hcopied : t.exp.toList.getD (n - 255) 0#8 = generatorTerm n := by
    rw [expToList_getD t (by omega), ht.exp_eq _ _ (by omega), ← generatorTerm_add_period, Nat.sub_add_cancel hfirst]
  rw [hcopied]
  refine ⟨ht.setExp_expAt, fun i hx hi _ => ?_⟩
  rw [logAt_setExp, ht.log_eq i hx hi (hi.trans_le hfirst)]

theorem WrittenBelow.after_initLoop {n i : Nat} {t : Tables} (ht : WrittenBelow i t) (hn : i + n ≤ 255) :
    WrittenBelow (i + n) (initLoop n i (generatorTerm i) t) := by
  induction n generalizing i t with
  | zero => exact ht
  | succ n ih =>
    rw [← Nat.succ_add_eq_add_succ]
    exact ih (ht.succ_of_first (by omega)) (by omega)

theorem WrittenBelow.after_initCopyLoop {n i : Nat} {t : Tables} (ht : WrittenBelow i t) (hi : 255 ≤ i)
    (hn : i + n ≤ 510) : WrittenBelow (i + n) (initCopyLoop n i t) := by
  induction n generalizing i t with
  | zero => exact ht
  | succ n ih =>
    rw [← Nat.succ_add_eq_add_succ]
    exact ih (ht.succ_of_copy hi (by omega)) (by omega) (by omega)

/-- Every nonzero byte is a term of the first period (40_table_ops.md R100 (a)). -/
theorem exists_generatorTerm {x : Byte} (hx : x ≠ 0#8) : ∃ i, i < 255 ∧ generatorTerm i = x :=
  ⟨_, built_afterInit.log_lt x hx, (built_afterInit.exp_eq _ _).symm.trans (built_afterInit.exp_log x hx)⟩

/-- Once every index is written the tables hold R21 and R22: every nonzero byte is a term of the first period. -/
theorem WrittenBelow.built {t : Tables} (ht : WrittenBelow 510 t) : Built t := by
  have hlog : ∀ x (hx : x ≠ 0#8), (t.logAt x hx).toNat < 255 ∧ generatorTerm (t.logAt x hx).toNat = x := by
    intro x hx
    obtain ⟨i, hi, rfl⟩ := exists_generatorTerm hx
    rw [ht.log_eq i hx hi (by omega)]
    exact ⟨hi, rfl⟩
  refine ⟨fun i h => ht.exp_eq i h h, fun x hx => (hlog x hx).1, fun x hx => ?_⟩
  obtain ⟨hlt, hterm⟩ := hlog x hx
  exact (ht.exp_eq _ _ (by omega)).trans hterm

theorem built_initTables (t : Tables) : Built (initTables t) :=
  (((writtenBelow_zero t).after_initLoop (n := 255) le_rfl).after_initCopyLoop (n := 255) le_rfl le_rfl).built

/-- The machine's finished tables are those of the loops, whatever the tables held (log 10). -/
theorem initTables_eq_afterInit (t : Tables) : initTables t = Tables.afterInit :=
  built_unique (built_initTables t) built_afterInit

/-- Settles O19: the loops leave the built tables, and only one pair of tables is built. -/
theorem initWritesTheTablesOfThePseudocode : Obligations.InitWritesTheTablesOfThePseudocode := by
  intro s
  refine ⟨?_, built_initTables s.tables⟩
  rw [exec_init, initTables_eq_afterInit]
  rfl

/-- Settles O20: a ready block already holds the tables INIT writes. -/
theorem secondInitChangesNothing : Obligations.SecondInitChangesNothing :=
  fun _ hinv hready => answers_init_of_ready hinv hready

end Sys2Proof.Proofs

/-! SUPPORT. The field operations (41_field_ops.md): their answers, products and quotients as steps of the generator
sequence, and the multiplication of polynomials over GF(2) modulo 0x11D, with the statements that follow from them. -/

namespace Sys2Proof.Proofs

open Sys2Proof.Machine Sys2Proof.Safety

/-! ### GFADD and GFSUB (41_field_ops.md R110, R111) -/

theorem answers_gfadd (x y : Byte) {s : State} (hone : WithinSeqMax s 1) : Answers (.gfadd x y) s (okBytes [x ^^^ y]) :=
  answers_of_rule_oneByte rfl hone nofun rfl

theorem answers_gfsub (x y : Byte) {s : State} (hone : WithinSeqMax s 1) : Answers (.gfsub x y) s (okBytes [x ^^^ y]) :=
  answers_of_rule_oneByte rfl hone nofun rfl

/-- The parts of a command word share no bit, so joining them is adding them. -/
theorem commandOf_eq_add (op a b : Byte) :
    commandOf op a b = (op.setWidth 32 <<< 24) + (a.setWidth 32 <<< 16) + (b.setWidth 32 <<< 8) := by
  have hopa : (op.setWidth 32 <<< 24) &&& (a.setWidth 32 <<< 16) = 0#32 := by
    apply BitVec.eq_of_getLsbD_eq
    intro i hi
    interval_cases i <;> simp
  have hb : ((op.setWidth 32 <<< 24) ||| (a.setWidth 32 <<< 16)) &&& (b.setWidth 32 <<< 8) = 0#32 := by
    apply BitVec.eq_of_getLsbD_eq
    intro i hi
    interval_cases i <;> simp
  rw [BitVec.add_eq_or_of_and_eq_zero _ _ hopa, BitVec.add_eq_or_of_and_eq_zero _ _ hb, commandOf]

theorem decode_gfadd {w : Command} (h : opcodeField w = 0x10#8) :
    decode ⟨w, [], []⟩ = checkRow (zeroXY w) true (.gfadd (fieldA w) (fieldB w)) := by
  simp [decode, h]

theorem decode_gfsub {w : Command} (h : opcodeField w = 0x11#8) :
    decode ⟨w, [], []⟩ = checkRow (zeroXY w) true (.gfsub (fieldA w) (fieldB w)) := by
  simp [decode, h]

/-- A step on a word of format XY whose operation answers one byte: that byte, or IllegalCommand for a nonzero low
byte. -/
theorem step_formatXY {s : State} {w : Command} {rest : List Request} {i : Instr} {v : Byte}
    (hq : s.requests = ⟨w, [], []⟩ :: rest) (hd : decode ⟨w, [], []⟩ = checkRow (zeroXY w) true i)
    (hanswers : ∀ {s' : State}, WithinSeqMax s' 1 → Answers i s' (okBytes [v])) :
    (w.extractLsb' 0 8 = 0#8 → WithinSeqMax s 1 →
      step s = .next (({ s with requests := rest } : State).respond (okBytes [v]))) ∧
    (w.extractLsb' 0 8 ≠ 0#8 →
      step s = .next (({ s with requests := rest } : State).respond (failure .illegalCommand))) := by
  refine ⟨fun hlow hone => ?_, fun hlow => ?_⟩
  · have hok : decode ⟨w, [], []⟩ = .ok i := hd.trans (checkRow_ok_iff.mpr ⟨beq_iff_eq.mpr hlow, rfl, rfl⟩)
    rw [step_decoded hq hok]
    exact hanswers hone
  · have hzero : zeroXY w = false := beq_eq_false_iff_ne.mpr hlow
    rw [hzero] at hd
    exact step_illegal hq hd

/-- Settles O23: both operations answer the xor, and a word of either opcode decodes to its operation unless the low
byte is nonzero. -/
theorem addAndSubtractAreXor : Obligations.AddAndSubtractAreXor := by
  refine ⟨fun x y s hone => ⟨answers_gfadd x y hone, answers_gfsub x y hone⟩, fun x y => ?_, fun s w rest hq hop => ?_⟩
  · rw [encode, encode, commandOf_eq_add, commandOf_eq_add]
    exact ⟨rfl, rfl⟩
  · obtain hop | hop := hop
    · exact step_formatXY hq (decode_gfadd hop) (answers_gfadd _ _)
    · exact step_formatXY hq (decode_gfsub hop) (answers_gfsub _ _)

/-! ### GFMUL and GFDIV (41_field_ops.md R112, R113) -/

theorem gfMul_zero_left (t : Tables) (y : Byte) : gfMul t 0#8 y = 0#8 := dif_pos rfl

theorem gfMul_zero_right (t : Tables) (x : Byte) : gfMul t x 0#8 = 0#8 := by
  simp [gfMul]

theorem gfMul_of_ne_zero (t : Tables) {x y : Byte} (hx : x ≠ 0#8) (hy : y ≠ 0#8) :
    gfMul t x y = expMod t ((t.logAt x hx).toNat + (t.logAt y hy).toNat) := by
  rw [gfMul, dif_neg hx, dif_neg hy]

theorem gfDiv_zero_right (t : Tables) (x : Byte) : gfDiv t x 0#8 = .error .divisionByZero := dif_pos rfl

theorem gfDiv_zero_left (t : Tables) {y : Byte} (hy : y ≠ 0#8) : gfDiv t 0#8 y = .ok 0#8 := by
  rw [gfDiv, dif_neg hy, dif_pos rfl]

theorem gfDiv_of_ne_zero (t : Tables) {x y : Byte} (hx : x ≠ 0#8) (hy : y ≠ 0#8) :
    gfDiv t x y = .ok (expMod t ((t.logAt x hx).toNat + 255 - (t.logAt y hy).toNat)) := by
  rw [gfDiv, dif_neg hy, dif_neg hx]

/-- A product that the rule gives is the response of a ready block. -/
theorem answers_gfmul {x y v : Byte} {s : State} (hmul : gfMul s.tables x y = v) (hready : s.ready = true)
    (hone : WithinSeqMax s 1) : Answers (.gfmul x y) s (okBytes [v]) :=
  answers_of_rule_oneByte (congrArg (Except.ok ∘ oneByte) hmul) hone nofun hready

/-- A quotient that the rule gives is the response of a ready block. -/
theorem answers_gfdiv {x y v : Byte} {s : State} (hdiv : gfDiv s.tables x y = .ok v) (hready : s.ready = true)
    (hone : WithinSeqMax s 1) : Answers (.gfdiv x y) s (okBytes [v]) :=
  answers_of_rule_oneByte (congrArg (Except.map oneByte) hdiv) hone nofun hready

/-- Settles O24: the READY check, then the zero operands, then the read. -/
theorem gfmulReadsExpAtTheLogSum : Obligations.GfmulReadsExpAtTheLogSum := by
  intro x y s
  refine ⟨fun hready => ?_, fun hready hone hzero => ?_, fun hready hone hx hy => ?_⟩
  · exact tableReadersWaitForInit.1 _ s rfl hready nofun
  · obtain rfl | rfl := hzero
    · exact answers_gfmul (gfMul_zero_left _ y) hready hone
    · exact answers_gfmul (gfMul_zero_right _ x) hready hone
  · exact answers_gfmul (gfMul_of_ne_zero _ hx hy) hready hone

/-- Settles O25: the READY check, then the zero divisor, then the zero dividend, then the read. -/
theorem gfdivReadsExpAtTheLogDifference : Obligations.GfdivReadsExpAtTheLogDifference := by
  intro x y s
  refine ⟨fun hready => ?_, fun hready hy => ?_, fun hready hone hy hx => ?_, fun hready hone hx hy => ?_⟩
  · exact tableReadersWaitForInit.1 _ s rfl hready nofun
  · subst hy
    exact answers_of_rule_error (congrArg (Except.map oneByte) (gfDiv_zero_right s.tables x)) nofun hready
  · subst hx
    exact answers_gfdiv (gfDiv_zero_left _ hy) hready hone
  · exact answers_gfdiv (gfDiv_of_ne_zero _ hx hy) hready hone

/-! ### Products and quotients as steps of the generator sequence (41_field_ops.md R114) -/

theorem eq_zero_or_generatorTerm (x : Byte) : x = 0#8 ∨ ∃ i < 255, generatorTerm i = x := by
  by_cases hx : x = 0#8
  · exact .inl hx
  · exact .inr (exists_generatorTerm hx)

theorem iterate_gfStep_generatorTerm (n i : Nat) : gfStep^[n] (generatorTerm i) = generatorTerm (i + n) := by
  rw [generatorTerm_eq, generatorTerm_eq, ← Function.iterate_add_apply, Nat.add_comm]

theorem iterate_gfStep_zero (n : Nat) : gfStep^[n] 0#8 = 0#8 :=
  Function.iterate_fixed (by decide) n

/-- Steps that together make one period lead back. -/
theorem iterate_gfStep_of_period {m n : Nat} (h : m + n = 255) (x : Byte) : gfStep^[m] (gfStep^[n] x) = x := by
  rw [← Function.iterate_add_apply, h]
  obtain rfl | ⟨i, -, rfl⟩ := eq_zero_or_generatorTerm x
  · exact iterate_gfStep_zero 255
  · rw [iterate_gfStep_generatorTerm, generatorTerm_add_period]

section BuiltTables

variable {t : Tables} (ht : Built t)

include ht

theorem expMod_of_built (n : Nat) : expMod t n = generatorTerm n :=
  (ht.exp_eq _ _).trans (generatorTerm_mod n)

/-- Multiplying by x_j is stepping j times. -/
theorem gfMul_generatorTerm (x : Byte) (j : Nat) : gfMul t x (generatorTerm j) = gfStep^[j] x := by
  obtain rfl | ⟨i, hi, rfl⟩ := eq_zero_or_generatorTerm x
  · rw [gfMul_zero_left, iterate_gfStep_zero]
  · have hi0 := generatorTerm_ne_zero i
    have hj0 := generatorTerm_ne_zero j
    have hlogi := built_logAt_of_generatorTerm ht hi hi0 rfl
    have hlogj := built_logAt_of_generatorTerm ht (Nat.mod_lt j (by decide)) hj0 (generatorTerm_mod j)
    calc gfMul t (generatorTerm i) (generatorTerm j)
      _ = generatorTerm (i + j % 255) := by rw [gfMul_of_ne_zero t hi0 hj0, expMod_of_built ht, hlogi, hlogj]
      _ = generatorTerm (i + j) := by rw [← generatorTerm_mod, Nat.add_mod_mod, generatorTerm_mod]
      _ = gfStep^[j] (generatorTerm i) := (iterate_gfStep_generatorTerm j i).symm

/-- Dividing by x_j is stepping through the rest of the period. -/
theorem gfDiv_generatorTerm (x : Byte) {j : Nat} (hj : j < 255) :
    gfDiv t x (generatorTerm j) = .ok (gfStep^[255 - j] x) := by
  have hj0 := generatorTerm_ne_zero j
  obtain rfl | ⟨i, hi, rfl⟩ := eq_zero_or_generatorTerm x
  · rw [gfDiv_zero_left t hj0, iterate_gfStep_zero]
  · have hi0 := generatorTerm_ne_zero i
    have hlogi := built_logAt_of_generatorTerm ht hi hi0 rfl
    have hlogj := built_logAt_of_generatorTerm ht hj hj0 rfl
    rw [gfDiv_of_ne_zero t hi0 hj0, expMod_of_built ht, hlogi, hlogj, iterate_gfStep_generatorTerm,
      Nat.add_sub_assoc hj.le]

end BuiltTables

/-! ### CarrylessMul is additive in both operands (41_field_ops.md R115) -/

/-- A conditional xor adds up over its condition and its word. -/
theorem ite_xor_cond {w : Nat} (a b : Bool) (r r' c : BitVec w) :
    (if a = true then r ^^^ c else r) ^^^ (if b = true then r' ^^^ c else r')
      = if (a ^^ b) = true then (r ^^^ r') ^^^ c else r ^^^ r' := by
  cases a <;> cases b
  · rfl
  · exact (BitVec.xor_assoc r r' c).symm
  · change r ^^^ c ^^^ r' = r ^^^ r' ^^^ c
    ac_rfl
  · calc (r ^^^ c) ^^^ (r' ^^^ c)
      _ = (r ^^^ r') ^^^ (c ^^^ c) := by ac_rfl
      _ = r ^^^ r' := by rw [BitVec.xor_self, BitVec.xor_zero]

/-- A conditional xor adds up over its word and its constant. -/
theorem ite_xor_const {w : Nat} (a : Bool) (r r' c c' : BitVec w) :
    (if a = true then r ^^^ c else r) ^^^ (if a = true then r' ^^^ c' else r')
      = if a = true then (r ^^^ r') ^^^ (c ^^^ c') else r ^^^ r' := by
  cases a
  · rfl
  · change (r ^^^ c) ^^^ (r' ^^^ c') = (r ^^^ r') ^^^ (c ^^^ c')
    ac_rfl

/-- `Step` in 8 bits: the bit that a shift loses decides whether the low byte of 0x11D is added. -/
theorem gfStep_eq : ∀ x : Byte, gfStep x = if x.getLsbD 7 = true then (x <<< 1) ^^^ 0x1D#8 else x <<< 1 := by
  decide +kernel

theorem gfStep_xor (x y : Byte) : gfStep (x ^^^ y) = gfStep x ^^^ gfStep y := by
  rw [gfStep_eq, gfStep_eq x, gfStep_eq y, ite_xor_cond, BitVec.getLsbD_xor, BitVec.shiftLeft_xor_distrib]

/-- The second loop of `CarrylessMul` (41_field_ops.md R115): reduction by 0x11D. -/
def reduceProduct (r : BitVec 16) : Byte :=
  ([14, 13, 12, 11, 10, 9, 8].foldl
    (fun r k => if r.getLsbD k then r ^^^ (0x11D#16 <<< (k - 8)) else r) r).setWidth 8

theorem carrylessMul_eq (x y : Byte) : carrylessMul x y = reduceProduct (carrylessProduct x y) := rfl

theorem reduceProduct_xor (r r' : BitVec 16) : reduceProduct (r ^^^ r') = reduceProduct r ^^^ reduceProduct r' := by
  rw [reduceProduct, reduceProduct, reduceProduct, ← BitVec.setWidth_xor, List.foldl_hom₂ _ (· ^^^ ·)]
  intro r r' k
  rw [ite_xor_cond, BitVec.getLsbD_xor]

theorem carrylessProduct_xor_left (x y z : Byte) :
    carrylessProduct (x ^^^ y) z = carrylessProduct x z ^^^ carrylessProduct y z := by
  rw [carrylessProduct, carrylessProduct, carrylessProduct, ← List.foldl_hom₂ _ (· ^^^ ·), BitVec.xor_self]
  intro r r' k
  rw [ite_xor_const, BitVec.setWidth_xor, BitVec.shiftLeft_xor_distrib]

theorem carrylessProduct_xor_right (x y z : Byte) :
    carrylessProduct x (y ^^^ z) = carrylessProduct x y ^^^ carrylessProduct x z := by
  rw [carrylessProduct, carrylessProduct, carrylessProduct, ← List.foldl_hom₂ _ (· ^^^ ·), BitVec.xor_self]
  intro r r' k
  rw [ite_xor_cond, BitVec.getLsbD_xor]

theorem carrylessMul_xor_left (x y z : Byte) : carrylessMul (x ^^^ y) z = carrylessMul x z ^^^ carrylessMul y z := by
  rw [carrylessMul_eq, carrylessProduct_xor_left, reduceProduct_xor, carrylessMul_eq, carrylessMul_eq]

theorem carrylessMul_xor_right (x y z : Byte) : carrylessMul x (y ^^^ z) = carrylessMul x y ^^^ carrylessMul x z := by
  rw [carrylessMul_eq, carrylessProduct_xor_right, reduceProduct_xor, carrylessMul_eq, carrylessMul_eq]

/-! ### CarrylessMul by x_j is stepping j times -/

theorem foldl_bits_eq : ∀ y : Byte,
    (List.range 8).foldl (fun r k => if y.getLsbD k then r ^^^ BitVec.twoPow 8 k else r) 0#8 = y := by
  decide +kernel

/-- What holds of the eight one-bit bytes and is kept by xor holds of every byte. -/
theorem byte_xor_induction {P : Byte → Prop} (bit : ∀ k < 8, P (BitVec.twoPow 8 k))
    (xor : ∀ a b, P a → P b → P (a ^^^ b)) (y : Byte) : P y := by
  rw [← foldl_bits_eq y]
  refine List.foldlRecOn _ _ ?_ fun r hr k hk => ?_
  · exact xor _ _ (bit 0 (by decide)) (bit 0 (by decide))
  · split_ifs
    · exact xor _ _ hr (bit k (List.mem_range.mp hk))
    · exact hr

theorem carrylessMul_zero (x : Byte) : carrylessMul x 0x00#8 = 0x00#8 :=
  calc carrylessMul x (0x00#8 ^^^ 0x00#8)
    _ = carrylessMul x 0x00#8 ^^^ carrylessMul x 0x00#8 := carrylessMul_xor_right x _ _
    _ = 0x00#8 := BitVec.xor_self

theorem carrylessMul_one (x : Byte) : carrylessMul x 0x01#8 = x := by
  induction x using byte_xor_induction with
  | bit k hk => decide +revert
  | xor a b ha hb => rw [carrylessMul_xor_left, ha, hb]

theorem carrylessMul_gfStep_twoPow : ∀ i < 8, ∀ j < 8,
    carrylessMul (BitVec.twoPow 8 i) (gfStep (BitVec.twoPow 8 j))
      = gfStep (carrylessMul (BitVec.twoPow 8 i) (BitVec.twoPow 8 j)) := by
  decide +kernel

/-- A step of an operand is a step of the product: both sides are additive in both operands, so the 64 pairs of
one-bit bytes decide it. -/
theorem carrylessMul_gfStep (x y : Byte) : carrylessMul x (gfStep y) = gfStep (carrylessMul x y) := by
  induction y using byte_xor_induction with
  | bit j hj =>
    induction x using byte_xor_induction with
    | bit i hi => exact carrylessMul_gfStep_twoPow i hi j hj
    | xor a b ha hb => rw [carrylessMul_xor_left, ha, hb, carrylessMul_xor_left, gfStep_xor]
  | xor a b ha hb => rw [gfStep_xor, carrylessMul_xor_right, ha, hb, carrylessMul_xor_right, gfStep_xor]

theorem carrylessMul_generatorTerm (x : Byte) (j : Nat) : carrylessMul x (generatorTerm j) = gfStep^[j] x := by
  induction j with
  | zero => exact carrylessMul_one x
  | succ j ih => rw [generatorTerm, carrylessMul_gfStep, ih, Function.iterate_succ_apply']

/-- `Step` is multiplication by z. -/
theorem carrylessMul_two (x : Byte) : carrylessMul x 0x02#8 = gfStep x :=
  carrylessMul_generatorTerm x 1

theorem gfMul_eq_carrylessMul {t : Tables} (ht : Built t) (x y : Byte) : gfMul t x y = carrylessMul x y := by
  obtain rfl | ⟨j, -, rfl⟩ := eq_zero_or_generatorTerm y
  · rw [gfMul_zero_right, carrylessMul_zero]
  · rw [gfMul_generatorTerm ht, carrylessMul_generatorTerm]

/-- Settles O26: by x_j both products are j steps, and a step is multiplication by z. -/
theorem gfmulIsMultiplicationModulo0x11D : Obligations.GfmulIsMultiplicationModulo0x11D := by
  refine fun t ht => ⟨gfMul_eq_carrylessMul ht, fun i h => ?_⟩
  have hstep : (fun z => carrylessMul z 0x02#8) = gfStep := funext carrylessMul_two
  rw [hstep, ht.exp_eq, generatorTerm_eq]

/-! ### The field laws (41_field_ops.md R112, R113) -/

/-- The sum of the logarithms commutes, whatever the tables hold. -/
theorem gfMul_comm (t : Tables) (x y : Byte) : gfMul t x y = gfMul t y x := by
  by_cases hx : x = 0#8
  · rw [hx, gfMul_zero_left, gfMul_zero_right]
  by_cases hy : y = 0#8
  · rw [hy, gfMul_zero_left, gfMul_zero_right]
  rw [gfMul_of_ne_zero t hx hy, gfMul_of_ne_zero t hy hx, Nat.add_comm]

section FieldLaws

variable {t : Tables} (ht : Built t)

include ht

theorem gfMul_one (x : Byte) : gfMul t x 0x01#8 = x := gfMul_generatorTerm ht x 0

/-- Multiplying by x_j and then by x_k is j + k steps, and so is multiplying by their product. -/
theorem gfMul_assoc (x y z : Byte) : gfMul t (gfMul t x y) z = gfMul t x (gfMul t y z) := by
  obtain rfl | ⟨j, -, rfl⟩ := eq_zero_or_generatorTerm y
  · rw [gfMul_zero_right, gfMul_zero_left, gfMul_zero_right]
  obtain rfl | ⟨k, -, rfl⟩ := eq_zero_or_generatorTerm z
  · rw [gfMul_zero_right, gfMul_zero_right, gfMul_zero_right]
  rw [gfMul_generatorTerm ht x, gfMul_generatorTerm ht, gfMul_generatorTerm ht, iterate_gfStep_generatorTerm,
    gfMul_generatorTerm ht, ← Function.iterate_add_apply, Nat.add_comm]

theorem gfMul_xor (x y z : Byte) : gfMul t x (y ^^^ z) = gfMul t x y ^^^ gfMul t x z := by
  simp only [gfMul_eq_carrylessMul ht, carrylessMul_xor_right]

/-- The inverse law of 41_field_ops.md R113 (e): the steps of the division and those of the product make one period. -/
theorem exists_gfDiv_gfMul_eq {x : Byte} (hx : x ≠ 0#8) (y : Byte) : ∃ q, gfDiv t y x = .ok q ∧ gfMul t x q = y := by
  obtain ⟨j, hj, rfl⟩ := exists_generatorTerm hx
  refine ⟨_, gfDiv_generatorTerm ht y hj, ?_⟩
  rw [gfMul_comm, gfMul_generatorTerm ht, iterate_gfStep_of_period (by omega)]

theorem gfDiv_gfMul {x : Byte} (hx : x ≠ 0#8) (y : Byte) : gfDiv t (gfMul t y x) x = .ok y := by
  obtain ⟨j, hj, rfl⟩ := exists_generatorTerm hx
  rw [gfMul_generatorTerm ht, gfDiv_generatorTerm ht _ hj, iterate_gfStep_of_period (by omega)]

end FieldLaws

/-- Settles O27. -/
theorem fieldLawsHoldAfterInit : Obligations.FieldLawsHoldAfterInit :=
  fun t ht x y z => ⟨gfMul_one ht x, gfMul_zero_right t x, gfMul_comm t x y, gfMul_assoc ht x y z, gfMul_xor ht x y z,
    fun hx => exists_gfDiv_gfMul_eq ht hx y, fun hx => gfDiv_gfMul ht hx y⟩

end Sys2Proof.Proofs

/-! SUPPORT. The laws of xoring onto the front of a sequence, and from them the loops of PolyMul and PolyDivMod as
written, the product's coefficients and the division identity, with the statements on the polynomial operations
(42_poly_ops.md). -/

namespace Sys2Proof.Proofs

open Sys2Proof.Machine Sys2Proof.Safety

/-! ### Xoring onto the front of a sequence -/

@[simp] theorem xorFront_nil_right (a : List Byte) : xorFront a [] = [] := by
  cases a <;> rfl

theorem zeros_succ (n : Nat) : zeros (n + 1) = 0#8 :: zeros n := rfl

theorem zeros_append_zeros (m n : Nat) : zeros m ++ zeros n = zeros (m + n) :=
  List.replicate_append_replicate

@[simp] theorem xorFront_zeros (n : Nat) (w : List Byte) : xorFront (zeros n) w = w := by
  induction n generalizing w with
  | zero => exact xorFront_nil w
  | succ n ih =>
    cases w with
    | nil => exact xorFront_nil_right _
    | cons b w => rw [zeros_succ, xorFront_cons, ih, BitVec.zero_xor]

/-- Xoring the same bytes on a second time takes them off again. -/
@[simp] theorem xorFront_xorFront_self (a w : List Byte) : xorFront a (xorFront a w) = w := by
  induction a, w using xorFront.induct with
  | case1 a as b bs ih => rw [xorFront_cons, xorFront_cons, ih, ← BitVec.xor_assoc, BitVec.xor_self, BitVec.zero_xor]
  | case2 w => rw [xorFront_nil, xorFront_nil]
  | case3 a as => rw [xorFront_nil_right, xorFront_nil_right]

/-- `b`, which `a` is no longer than, takes the bytes of `a` along. -/
theorem xorFront_assoc {a b : List Byte} (h : a.length ≤ b.length) (w : List Byte) :
    xorFront (xorFront a b) w = xorFront a (xorFront b w) := by
  induction a, b using xorFront.induct generalizing w with
  | case1 x as y bs ih =>
    cases w with
    | nil => simp only [xorFront_nil_right]
    | cons z w => rw [xorFront_cons, xorFront_cons, xorFront_cons, xorFront_cons, BitVec.xor_assoc,
        ih (Nat.le_of_succ_le_succ h)]
  | case2 b => rw [xorFront_nil, xorFront_nil]
  | case3 x as => exact absurd h (Nat.not_succ_le_zero _)

theorem xorFront_left_comm (a b w : List Byte) : xorFront a (xorFront b w) = xorFront b (xorFront a w) := by
  induction a, b using xorFront.induct generalizing w with
  | case1 x as y bs ih =>
    cases w with
    | nil => simp only [xorFront_nil_right]
    | cons z w => rw [xorFront_cons, xorFront_cons, xorFront_cons, xorFront_cons, ih, ← BitVec.xor_assoc,
        BitVec.xor_comm x y, BitVec.xor_assoc]
  | case2 b => rw [xorFront_nil, xorFront_nil]
  | case3 x as => rw [xorFront_nil, xorFront_nil]

theorem xorFront_zeros_right {a : List Byte} {n : Nat} (h : a.length = n) : xorFront a (zeros n) = a := by
  subst h
  induction a with
  | nil => rfl
  | cons x a ih => rw [List.length_cons, zeros_succ, xorFront_cons, ih, BitVec.xor_zero]

theorem zeros_append_xorFront (n : Nat) (a b : List Byte) :
    zeros n ++ xorFront a b = xorFront (zeros n ++ a) (zeros n ++ b) := by
  induction n with
  | zero => rfl
  | succ n ih => rw [zeros_succ, List.cons_append, ih]; rfl

/-- Xoring one byte more is one write more. -/
theorem xorFront_concat (a : List Byte) (x : Byte) (w : List Byte) :
    xorFront (a ++ [x]) w = (xorFront a w).set a.length ((xorFront a w).getD a.length 0#8 ^^^ x) := by
  induction a, w using xorFront.induct with
  | case1 y as b bs ih => rw [List.cons_append, xorFront_cons, ih]; rfl
  | case2 w =>
    cases w with
    | nil => rfl
    | cons b w => simp [BitVec.xor_comm]
  | case3 y as => simp

theorem le_xorFront_length {n : Nat} {b : Byte} {w : List Byte} (a : List Byte) (h : n + 1 ≤ (b :: w).length) :
    n ≤ (xorFront a w).length := by
  rw [xorFront_length]
  exact Nat.le_of_succ_le_succ h

theorem xorFront_getD {a w : List Byte} (h : a.length ≤ w.length) (k : Nat) :
    (xorFront a w).getD k 0#8 = a.getD k 0#8 ^^^ w.getD k 0#8 := by
  induction a, w using xorFront.induct generalizing k with
  | case1 x as y bs ih =>
    cases k with
    | zero => rfl
    | succ k => exact ih (Nat.le_of_succ_le_succ h) k
  | case2 w => simp
  | case3 x as => exact absurd h (Nat.not_succ_le_zero _)

theorem xorEntries_eq_xorFront {a w : List Byte} (h : a.length = w.length) : xorEntries a w = xorFront a w := by
  induction a, w using xorFront.induct with
  | case1 x as y bs ih => rw [xorFront_cons, ← ih (Nat.succ.inj h)]; rfl
  | case2 w => rw [List.length_eq_zero_iff.mp h.symm]; rfl
  | case3 x as => contradiction

/-! ### An indexed loop of xors -/

/-- A loop that xors `g j` onto entry `i + j`, for `n` indices from `start` up, xors all of them at once. -/
theorem foldl_set_xor (g : Nat → Byte) (i start n : Nat) (w : List Byte) :
    (List.range' start n).foldl (fun w j => w.set (i + j) (w.getD (i + j) 0#8 ^^^ g j)) w
      = xorFront (zeros (i + start) ++ (List.range' start n).map g) w := by
  induction n with
  | zero => simp
  | succ n ih =>
    rw [List.range'_1_concat, List.foldl_concat, ih, List.map_append, ← List.append_assoc, List.map_singleton,
      xorFront_concat, List.length_append, zeros_length, List.length_map, List.length_range', Nat.add_assoc]

/-- Reading a sequence by index from `start` to its end is dropping what stands before. -/
theorem map_range'_getD (f : Byte → Byte) (l : List Byte) (start : Nat) :
    (List.range' start (l.length - start)).map (fun j => f (l.getD j 0#8)) = (l.drop start).map f := by
  refine List.ext_getElem (by simp) fun k hk _ => ?_
  have hlt : start + k < l.length := by
    rw [List.length_map, List.length_range'] at hk
    omega
  simp [hlt]

/-! ### PolyMul -/

theorem polyMul_length_of_ne_nil (t : Tables) (p : List Byte) {q : List Byte} (hq : q ≠ []) :
    (polyMul t p q).length = p.length + q.length - 1 := by
  rw [polyMul_length, Nat.add_sub_assoc (List.length_pos_iff.mpr hq)]

/-- The row of `p[i]`, xored on by the inner loop of `PolyMul` (42_poly_ops.md R120). -/
theorem polyMul_inner_loop (t : Tables) (c : Byte) (q : List Byte) (i : Nat) (r : List Byte) :
    (List.range q.length).foldl (fun r j => r.set (i + j) (r.getD (i + j) 0#8 ^^^ gfMul t c (q.getD j 0#8))) r
      = xorFront (zeros i ++ q.map (gfMul t c)) r := by
  rw [List.range_eq_range', foldl_set_xor fun j => gfMul t c (q.getD j 0#8)]
  exact congrArg (fun row => xorFront (zeros i ++ row) r) (map_range'_getD (gfMul t c) q 0)

/-- The row of `p[0]` reaches no further than the product of the rest shifted by one place. -/
theorem row_length_le (t : Tables) (c : Byte) (p q : List Byte) :
    (q.map (gfMul t c)).length ≤ (0#8 :: polyMul t p q).length := by
  rw [List.length_map, List.length_cons, polyMul_length]
  omega

/-- All rows, `p[0]` standing at place `n`, are the product at that place. -/
theorem foldl_rows (t : Tables) (p q : List Byte) (n : Nat) (r : List Byte) :
    (List.range p.length).foldl (fun r i => xorFront (zeros (n + i) ++ q.map (gfMul t (p.getD i 0#8))) r) r
      = xorFront (zeros n ++ polyMul t p q) r := by
  induction p generalizing n r with
  | nil =>
    rw [polyMul, zeros_append_zeros, xorFront_zeros]
    rfl
  | cons c p ih =>
    have hplace : zeros n ++ 0#8 :: polyMul t p q = zeros (n + 1) ++ polyMul t p q := by
      simp [zeros, List.replicate_add]
    have hlen : (zeros n ++ q.map (gfMul t c)).length ≤ (zeros n ++ 0#8 :: polyMul t p q).length := by
      have := row_length_le t c p q
      simp only [List.length_append]
      omega
    simp only [List.length_cons, List.range_succ_eq_map, List.foldl_cons, List.foldl_map, List.getD_cons_zero,
      List.getD_cons_succ, Nat.add_zero, Nat.succ_eq_add_one, ← Nat.add_assoc, Nat.add_right_comm n _ 1]
    rw [ih, polyMul, zeros_append_xorFront, xorFront_assoc hlen, xorFront_left_comm, hplace]

/-- `PolyMul` as written leaves the product (42_poly_ops.md R120). -/
theorem polyMulLoops_eq (t : Tables) (p : List Byte) {q : List Byte} (hq : q ≠ []) :
    polyMulLoops t p q = polyMul t p q := by
  have hrows := foldl_rows t p q 0 (zeros (p.length + q.length - 1))
  simp only [Nat.zero_add] at hrows
  simp only [polyMulLoops, polyMul_inner_loop]
  exact hrows.trans (xorFront_zeros_right (polyMul_length_of_ne_nil t p hq))

/-- The xor of GFMul(p[i], q[k-i]) over i from 0 to k (42_poly_ops.md R120 (a)). -/
def convolution (t : Tables) (p q : List Byte) (k : Nat) : Byte :=
  ((List.range (k + 1)).map fun i => gfMul t (p.getD i 0#8) (q.getD (k - i) 0#8)).foldl (· ^^^ ·) 0#8

theorem foldl_xor_cons (x : Byte) (l : List Byte) : (x :: l).foldl (· ^^^ ·) 0#8 = x ^^^ l.foldl (· ^^^ ·) 0#8 := by
  rw [List.foldl_cons, BitVec.xor_comm, List.foldl_assoc]

theorem convolution_nil (t : Tables) (q : List Byte) (k : Nat) : convolution t [] q k = 0#8 := by
  simp only [convolution, List.getD_nil, gfMul_zero_left, List.foldl_map, BitVec.xor_zero, List.foldl_fixed]

theorem convolution_cons_zero (t : Tables) (c : Byte) (p q : List Byte) :
    convolution t (c :: p) q 0 = gfMul t c (q.getD 0 0#8) := BitVec.zero_xor

theorem convolution_cons_succ (t : Tables) (c : Byte) (p q : List Byte) (k : Nat) :
    convolution t (c :: p) q (k + 1) = gfMul t c (q.getD (k + 1) 0#8) ^^^ convolution t p q k := by
  rw [convolution, List.range_succ_eq_map, List.map_cons, foldl_xor_cons, List.map_map]
  simp only [Function.comp_def, List.getD_cons_zero, List.getD_cons_succ, Nat.succ_eq_add_one, Nat.add_sub_add_right,
    Nat.sub_zero, convolution]

theorem polyMul_getD (t : Tables) (p q : List Byte) (k : Nat) : (polyMul t p q).getD k 0#8 = convolution t p q k := by
  induction p generalizing k with
  | nil => rw [convolution_nil]; simp [polyMul, zeros]
  | cons c p ih =>
    have hrow : (q.map (gfMul t c)).getD k 0#8 = gfMul t c (q.getD k 0#8) := by
      rw [← List.getD_map (f := gfMul t c), gfMul_zero_right]
    rw [polyMul, xorFront_getD (row_length_le t c p q), hrow]
    cases k with
    | zero => rw [convolution_cons_zero, List.getD_cons_zero, BitVec.xor_zero]
    | succ k => rw [convolution_cons_succ, List.getD_cons_succ, ih]

/-! ### PolyDivMod -/

theorem map_gfMul_zero (t : Tables) (l : List Byte) : l.map (gfMul t 0#8) = zeros l.length :=
  List.eq_replicate_iff.mpr ⟨by simp, by simp +contextual [gfMul_zero_left]⟩

/-- One leading position of the machine's loop. -/
theorem polyDivLoop_cons (t : Tables) (tail : List Byte) (n : Nat) (coef : Byte) (w : List Byte) :
    polyDivLoop t tail (n + 1) (coef :: w) =
      (coef :: (polyDivLoop t tail n (xorFront (tail.map (gfMul t coef)) w)).1,
        (polyDivLoop t tail n (xorFront (tail.map (gfMul t coef)) w)).2) := by
  simp only [polyDivLoop, gfMul_comm t _ coef]
  split_ifs with h
  · rw [h, map_gfMul_zero, xorFront_zeros]
  · rfl

theorem polyDivLoop_fst_length (t : Tables) (tail : List Byte) {n : Nat} {w : List Byte} (h : n ≤ w.length) :
    (polyDivLoop t tail n w).1.length = n := by
  induction n generalizing w with
  | zero => rfl
  | succ n ih =>
    cases w with
    | nil => contradiction
    | cons coef w =>
      rw [polyDivLoop_cons, List.length_cons, ih (le_xorFront_length _ h)]

/-- One pass as written xors on the row of its coefficient (42_poly_ops.md R121). -/
theorem polyDivPass_eq (t : Tables) (divisor w : List Byte) (i : Nat) :
    polyDivPass t divisor w i = xorFront (zeros (i + 1) ++ divisor.tail.map (gfMul t (w.getD i 0#8))) w := by
  simp only [polyDivPass, gfMul_comm t _ (w.getD i 0#8)]
  split_ifs with h
  · rw [h, map_gfMul_zero, zeros_append_zeros, xorFront_zeros]
  · rw [foldl_set_xor fun j => gfMul t (w.getD i 0#8) (divisor.getD j 0#8), map_range'_getD, List.drop_one]

/-- A pass further on leaves the first entry alone. -/
theorem polyDivPass_succ (t : Tables) (divisor : List Byte) (coef : Byte) (w : List Byte) (i : Nat) :
    polyDivPass t divisor (coef :: w) (i + 1) = coef :: polyDivPass t divisor w i := by
  rw [polyDivPass_eq, polyDivPass_eq, List.getD_cons_succ, zeros_succ (i + 1), List.cons_append, xorFront_cons,
    BitVec.zero_xor]

/-- The passes leave the quotient followed by the remainder. -/
theorem foldl_polyDivPass (t : Tables) (divisor : List Byte) {n : Nat} {w : List Byte} (h : n ≤ w.length) :
    (List.range n).foldl (polyDivPass t divisor) w
      = (polyDivLoop t divisor.tail n w).1 ++ (polyDivLoop t divisor.tail n w).2 := by
  induction n generalizing w with
  | zero => rfl
  | succ n ih =>
    cases w with
    | nil => contradiction
    | cons coef w =>
      have hfirst : polyDivPass t divisor (coef :: w) 0 = coef :: xorFront (divisor.tail.map (gfMul t coef)) w := by
        rw [polyDivPass_eq]
        simp [zeros]
      rw [List.range_succ_eq_map, List.foldl_cons, hfirst, List.foldl_map, polyDivLoop_cons, List.cons_append,
        ← ih (le_xorFront_length _ h)]
      exact List.foldl_hom (coef :: ·) fun w i => polyDivPass_succ t divisor coef w i

/-- There are no more leading positions than entries. -/
theorem positions_le {dividend divisor : List Byte} (h : divisor ≠ []) :
    dividend.length + 1 - divisor.length ≤ dividend.length := by
  have := List.length_pos_iff.mpr h
  omega

theorem polyDivMod_fst_length (t : Tables) (dividend : List Byte) {divisor : List Byte} (h : divisor ≠ []) :
    (polyDivMod t dividend divisor).1.length = dividend.length + 1 - divisor.length :=
  polyDivLoop_fst_length t _ (positions_le h)

theorem polyDivMod_snd_length (t : Tables) {dividend divisor : List Byte} (h : divisor ≠ [])
    (hlen : divisor.length - 1 ≤ dividend.length) : (polyDivMod t dividend divisor).2.length = divisor.length - 1 := by
  have := List.length_pos_iff.mpr h
  rw [polyDivMod, polyDivLoop_snd_length]
  omega

/-- `PolyDivMod` as written leaves the machine's quotient and remainder (42_poly_ops.md R121). -/
theorem polyDivModLoops_eq (t : Tables) (dividend : List Byte) {divisor : List Byte} (h : divisor ≠ []) :
    polyDivModLoops t dividend divisor = polyDivMod t dividend divisor := by
  have hquotient := polyDivMod_fst_length t dividend h
  rw [polyDivModLoops, foldl_polyDivPass t divisor (positions_le h), ← polyDivMod, List.take_left' hquotient,
    List.drop_left' hquotient]

/-! ### Division by a monic polynomial (42_poly_ops.md R121 (a), R122) -/

section Monic

variable {t : Tables} (ht : Built t)

include ht

/-- A product by a monic polynomial keeps the first coefficient, the one its row cancels by in a division. -/
theorem polyMul_cons_monic (c : Byte) (p tail : List Byte) :
    polyMul t (c :: p) (0x01#8 :: tail) = c :: xorFront (tail.map (gfMul t c)) (polyMul t p (0x01#8 :: tail)) := by
  rw [polyMul, List.map_cons, xorFront_cons, gfMul_one ht, BitVec.xor_zero]

/-- The division identity at every leading position: what the quotient so far was multiplied by comes off again. -/
theorem xorFront_polyMul_polyDivLoop (tail : List Byte) {n : Nat} {w : List Byte} (h : n ≤ w.length) :
    xorFront (polyMul t (polyDivLoop t tail n w).1 (0x01#8 :: tail)) (zeros n ++ (polyDivLoop t tail n w).2) = w := by
  induction n generalizing w with
  | zero => exact xorFront_zeros _ _
  | succ n ih =>
    cases w with
    | nil => contradiction
    | cons coef w =>
      have hrow (p : List Byte) : (tail.map (gfMul t coef)).length ≤ (polyMul t p (0x01#8 :: tail)).length := by
        rw [List.length_map, polyMul_length]
        exact Nat.le_add_left _ _
      rw [polyDivLoop_cons, polyMul_cons_monic ht, zeros_succ, List.cons_append, xorFront_cons, BitVec.xor_zero,
        xorFront_assoc (hrow _), ih (le_xorFront_length _ h), xorFront_xorFront_self]

/-- Every leading position gives the next coefficient of `p` back and takes its row off. -/
theorem polyDivLoop_polyMul (p tail : List Byte) :
    polyDivLoop t tail p.length (polyMul t p (0x01#8 :: tail)) = (p, zeros tail.length) := by
  induction p with
  | nil => rfl
  | cons c p ih => rw [polyMul_cons_monic ht, List.length_cons, polyDivLoop_cons, xorFront_xorFront_self, ih]

end Monic

/-! ### The statements -/

/-- With every check passed, the results of the operation's rule are the response. -/
theorem answers_of_rule_ok {i : Instr} {s : State} {r0 r1 : Seq} (hi : i ≠ .init)
    (hrule : ruleAnswer i s.tables s.params = .ok (r0, r1)) (hr0 : WithinSeqMax s r0.length)
    (hr1 : WithinSeqMax s r1.length) (hwithin : ∀ n ∈ payloadLengths i, WithinSeqMax s n)
    (hready : (!ReadsTables i || s.ready) = true) : Answers i s ⟨.ok, r0, r1⟩ := by
  have hanswer : answerOf i s.tables s.ready s.params = .ok (r0, r1) := by
    rw [answerOf_of_fits fun n hn => fits_of_within (hwithin n hn), checkedAnswer, hready, needTables_true, hrule,
      capResult_of_fits (fits_of_within hr0) (fits_of_within hr1)]
  have hanswers := answers_of_ne_init s hi
  rwa [hanswer] at hanswers

theorem within_zero (s : State) : WithinSeqMax s 0 := fun _ _ => Nat.zero_le _

theorem within_of_le {s : State} {m n : Nat} (h : WithinSeqMax s n) (hle : m ≤ n) : WithinSeqMax s m :=
  fun k hk => hle.trans (h k hk)

theorem within_pair {s : State} {m n : Nat} (hm : WithinSeqMax s m) (hn : WithinSeqMax s n) :
    ∀ k ∈ [m, n], WithinSeqMax s k :=
  List.forall_mem_cons.mpr ⟨hm, List.forall_mem_singleton.mpr hn⟩

/-- The check of PMUL passes for two non-empty operands. -/
theorem pmulAnswer_of_ne_nil (t : Tables) {p q : List Byte} (hp : p ≠ []) (hq : q ≠ []) :
    pmulAnswer t p q = .ok (bytesResult (polyMul t p q)) := by
  simp [pmulAnswer, hp, hq]

/-- Settles O28: the READY check, then the empty operands, then the product, which the loops leave as well. -/
theorem pmulReturnsTheProductOfThePseudocode : Obligations.PmulReturnsTheProductOfThePseudocode := by
  intro p q s hp hq
  have hwithin := within_pair hp hq
  refine ⟨fun hready => ?_, fun hready hempty => ?_, fun hready hp0 hq0 hproduct => ?_⟩
  · exact tableReadersWaitForInit.1 _ s rfl hready hwithin
  · have hempty' : p.length = 0 ∨ q.length = 0 := hempty.imp List.length_eq_zero_iff.mpr List.length_eq_zero_iff.mpr
    exact answers_of_rule_error (if_pos hempty') hwithin hready
  · rw [polyMulLoops_eq s.tables p hq0]
    refine answers_of_rule_ok nofun (pmulAnswer_of_ne_nil s.tables hp0 hq0) ?_ (within_zero s) hwithin hready
    rwa [List.length_map, polyMul_length_of_ne_nil s.tables p hq0]

/-- Settles O29. -/
theorem productCoefficientsAreConvolutions : Obligations.ProductCoefficientsAreConvolutions :=
  fun t p q _ hq => ⟨polyMul_length_of_ne_nil t p hq, fun k _ => polyMul_getD t p q k⟩

/-- The checks of PDIVMOD pass for a monic divisor and a dividend no shorter than the remainder. -/
theorem pdivmodAnswer_of_monic (t : Tables) {dividend rest : List Byte} (h : rest.length ≤ dividend.length) :
    pdivmodAnswer t dividend (0x01#8 :: rest) =
      .ok (byteSeq (polyDivMod t dividend (0x01#8 :: rest)).1, byteSeq (polyDivMod t dividend (0x01#8 :: rest)).2) := by
  simp [pdivmodAnswer, h]

/-- Settles O30: the checks in their order, then the quotient and remainder, which the passes leave as well. -/
theorem pdivmodReturnsTheDivisionOfThePseudocode : Obligations.PdivmodReturnsTheDivisionOfThePseudocode := by
  intro dividend divisor s hdividend hdivisor
  have hwithin := within_pair hdividend hdivisor
  refine ⟨fun hready => ?_, fun hready hempty => ?_, fun hready c rest hcons hc => ?_, fun hready rest hcons hshort => ?_,
    fun hready rest hcons hlong => ?_⟩
  · exact tableReadersWaitForInit.1 _ s rfl hready hwithin
  · subst hempty
    exact answers_of_rule_error rfl hwithin hready
  · subst hcons
    exact answers_of_rule_error (by simp [ruleAnswer, pdivmodAnswer, hc]) hwithin hready
  · subst hcons
    exact answers_of_rule_error (by simp [ruleAnswer, pdivmodAnswer, hshort]) hwithin hready
  · subst hcons
    have hmonic : (0x01#8 :: rest) ≠ [] := List.cons_ne_nil _ _
    rw [polyDivModLoops_eq s.tables dividend hmonic]
    refine answers_of_rule_ok nofun (pdivmodAnswer_of_monic s.tables hlong) ?_ ?_ hwithin hready
    · rw [List.length_map, polyDivMod_fst_length _ _ hmonic]
      exact within_of_le hdividend (positions_le hmonic)
    · rw [List.length_map, polyDivMod_snd_length _ hmonic hlong]
      exact within_of_le hdividend hlong

/-- Settles O31: the division identity at the first leading position. -/
theorem dividendIsQuotientTimesDivisorPlusRemainder : Obligations.DividendIsQuotientTimesDivisorPlusRemainder := by
  intro t dividend divisor ht hhead hlen
  obtain ⟨tail, rfl⟩ := List.head?_eq_some_iff.mp hhead
  have hmonic : (0x01#8 :: tail) ≠ [] := List.cons_ne_nil _ _
  have hequal : (polyMul t (polyDivMod t dividend (0x01#8 :: tail)).1 (0x01#8 :: tail)).length
      = (zeros (dividend.length + 1 - (0x01#8 :: tail).length) ++ (polyDivMod t dividend (0x01#8 :: tail)).2).length := by
    rw [polyMul_length, polyDivMod_fst_length _ _ hmonic, List.length_append, zeros_length,
      polyDivMod_snd_length t hmonic (by omega)]
  rw [xorEntries_eq_xorFront hequal]
  exact (xorFront_polyMul_polyDivLoop ht tail (positions_le hmonic)).symm

/-- Settles O32: the positions of the division give the coefficients of `p` back one by one; the lengths are those of
the two loops. -/
theorem divisionUndoesMultiplication : Obligations.DivisionUndoesMultiplication := by
  refine fun t ht => ⟨fun p q _ hhead => ?_, fun p q _ hq => polyMul_length_of_ne_nil t p hq,
    fun dividend divisor hne hlen => ⟨?_, polyDivMod_snd_length t hne hlen⟩⟩
  · obtain ⟨tail, rfl⟩ := List.head?_eq_some_iff.mp hhead
    have hpositions : (polyMul t p (0x01#8 :: tail)).length + 1 - (0x01#8 :: tail).length = p.length := by
      rw [polyMul_length, List.length_cons]
      omega
    rw [polyDivMod, hpositions]
    exact polyDivLoop_polyMul ht p tail
  · rw [polyDivMod_fst_length t dividend hne]
    omega

end Sys2Proof.Proofs

/-! SUPPORT. The generator as the loop of GeneratorPoly leaves it, its roots by Horner's rule, and the parity that takes
the remainder of a codeword off, with the statements on the Reed–Solomon operations (43_rs_ops.md). -/

namespace Sys2Proof.Proofs

open Sys2Proof.Machine Sys2Proof.Safety

/-! ### GeneratorPoly and the parity as written -/

/-- `GeneratorPoly` as written leaves the machine's generator (43_rs_ops.md R130). -/
theorem generatorLoop_eq (t : Tables) {n : Nat} (h : n ≤ 255) : generatorLoop t n = generatorPoly t n h := by
  induction n with
  | zero => rfl
  | succ n ih =>
    have hloop : generatorLoop t (n + 1) = polyMulLoops t (generatorLoop t n) [0x01#8, t.exp.toList.getD n 0#8] := by
      rw [generatorLoop, List.range_succ, List.foldl_concat, generatorLoop]
    rw [hloop, ih (by omega), polyMulLoops_eq t _ (List.cons_ne_nil _ _), expToList_getD t (by omega), generatorPoly]

theorem generatorLoop_toNat (t : Tables) (nsym : Byte) : generatorLoop t nsym.toNat = generatorOf t nsym :=
  generatorLoop_eq t _

theorem generatorOf_ne_nil (t : Tables) (nsym : Byte) : generatorOf t nsym ≠ [] :=
  List.ne_nil_of_length_eq_add_one (generatorOf_length t nsym)

/-- The remainder of the padded message by the generator (43_rs_ops.md R131). -/
def parityOf (t : Tables) (message : List Byte) (nsym : Byte) : List Byte :=
  (polyDivMod t (message ++ zeros nsym.toNat) (generatorOf t nsym)).2

/-- The parity of `RSEncode` as written is the remainder the machine takes (43_rs_ops.md R131). -/
theorem parityLoop_eq (t : Tables) (message : List Byte) (nsym : Byte) :
    parityLoop t message nsym.toNat = parityOf t message nsym := by
  rw [parityLoop, generatorLoop_toNat, polyDivModLoops_eq t _ (generatorOf_ne_nil t nsym), parityOf]

theorem parityOf_length (t : Tables) (message : List Byte) (nsym : Byte) :
    (parityOf t message nsym).length = nsym.toNat := by
  have hlen : (generatorOf t nsym).length - 1 = nsym.toNat := by
    rw [generatorOf_length, Nat.add_sub_cancel]
  rw [parityOf, polyDivMod_snd_length t (generatorOf_ne_nil t nsym), hlen]
  rw [hlen, List.length_append, zeros_length]
  exact Nat.le_add_left _ _

theorem rsEncode_of_le (t : Tables) {message : List Byte} {nsym : Byte} (h : message.length + nsym.toNat ≤ 255) :
    rsEncode t message nsym = .ok (message ++ parityOf t message nsym) := if_neg (Nat.not_lt.mpr h)

theorem rsEncode_of_gt (t : Tables) {message : List Byte} {nsym : Byte} (h : 255 < message.length + nsym.toNat) :
    rsEncode t message nsym = .error .lengthExceeded := if_pos h

/-- Settles O33: the READY check, then the generator, which the loop leaves as well. -/
theorem genpolyReturnsTheProductOfTheFactors : Obligations.GenpolyReturnsTheProductOfTheFactors := by
  refine fun nsym s => ⟨fun hready => ?_, fun hready hgenerator => ?_⟩
  · exact tableReadersWaitForInit.1 _ s rfl hready nofun
  · rw [generatorLoop_toNat]
    refine answers_of_rule_ok nofun rfl ?_ (within_zero s) nofun hready
    rwa [List.length_map, generatorOf_length]

/-- Settles O35: the READY check, then the length test, then the codeword, whose parity the loops leave as well. -/
theorem rsencAppendsTheParity : Obligations.RsencAppendsTheParity := by
  intro nsym message s hmessage
  have hwithin : ∀ n ∈ [message.length], WithinSeqMax s n := List.forall_mem_singleton.mpr hmessage
  refine ⟨fun hready => ?_, fun hready hlong => ?_, fun hready hlen hcodeword => ?_⟩
  · exact tableReadersWaitForInit.1 _ s rfl hready hwithin
  · exact answers_of_rule_error (congrArg (Except.map bytesResult) (rsEncode_of_gt s.tables hlong)) hwithin hready
  · rw [parityLoop_eq]
    refine answers_of_rule_ok nofun (congrArg (Except.map bytesResult) (rsEncode_of_le s.tables hlen)) ?_
      (within_zero s) hwithin hready
    rwa [List.length_map, List.length_append, parityOf_length]

/-! ### Horner's rule (43_rs_ops.md R130 (e)) -/

/-- One step of Horner's rule. -/
def hornerStep (t : Tables) (r y c : Byte) : Byte := gfMul t y r ^^^ c

theorem horner_eq_foldl (t : Tables) (r : Byte) (p : List Byte) : horner t r p = p.foldl (hornerStep t r) 0#8 := rfl

theorem horner_concat (t : Tables) (r : Byte) (p : List Byte) (c : Byte) :
    horner t r (p ++ [c]) = gfMul t (horner t r p) r ^^^ c := List.foldl_concat ..

/-- A leading 0 does not count. -/
theorem horner_zero_cons (t : Tables) (r : Byte) (p : List Byte) : horner t r (0#8 :: p) = horner t r p := by
  rw [horner_eq_foldl, List.foldl_cons, hornerStep, gfMul_zero_left, BitVec.xor_zero, horner_eq_foldl]

theorem horner_singleton (t : Tables) (r c : Byte) : horner t r [c] = c := by
  rw [horner_eq_foldl, List.foldl_cons, hornerStep, gfMul_zero_left, BitVec.zero_xor, List.foldl_nil]

/-- The value at 0 is the last coefficient. -/
theorem horner_zero_of_getLast? (t : Tables) {p : List Byte} {c : Byte} (h : p.getLast? = some c) :
    horner t 0#8 p = c := by
  obtain ⟨front, rfl⟩ := List.getLast?_eq_some_iff.mp h
  rw [horner_concat, gfMul_zero_right, BitVec.zero_xor]

section Roots

variable {t : Tables} (ht : Built t)

include ht

theorem gfMul_eq_zero_iff (x y : Byte) : gfMul t x y = 0#8 ↔ x = 0#8 ∨ y = 0#8 := by
  refine ⟨fun h => or_iff_not_imp_left.mpr fun hx => by_contra fun hy => ?_, ?_⟩
  · rw [gfMul_of_ne_zero t hx hy, expMod_of_built ht] at h
    exact generatorTerm_ne_zero _ h
  · rintro (rfl | rfl)
    · exact gfMul_zero_left t y
    · exact gfMul_zero_right t x

theorem xor_gfMul (x y z : Byte) : gfMul t (x ^^^ y) z = gfMul t x z ^^^ gfMul t y z := by
  rw [gfMul_comm t _ z, gfMul_xor ht, gfMul_comm t z x, gfMul_comm t z y]

/-- p * (x + a) = p * x + a * p. -/
theorem polyMul_linear (p : List Byte) (a : Byte) :
    polyMul t p [0x01#8, a] = xorFront (p ++ [0#8]) (0#8 :: p.map (gfMul t a)) := by
  induction p with
  | nil => rfl
  | cons c p ih =>
    rw [polyMul_cons_monic ht, ih, xorFront_left_comm, List.map_singleton, xorFront_cons, xorFront_nil, BitVec.xor_zero,
      gfMul_comm, List.cons_append, List.map_cons, xorFront_cons, BitVec.xor_zero]

/-- The value of a sum is the sum of the values, from any two values of what stands before. -/
theorem foldl_hornerStep_xorFront (r : Byte) {a w : List Byte} (h : a.length = w.length) (y z : Byte) :
    (xorFront a w).foldl (hornerStep t r) (y ^^^ z) = a.foldl (hornerStep t r) y ^^^ w.foldl (hornerStep t r) z := by
  induction a, w using xorFront.induct generalizing y z with
  | case1 c as d bs ih =>
    have hstep : hornerStep t r (y ^^^ z) (c ^^^ d) = hornerStep t r y c ^^^ hornerStep t r z d := by
      simp only [hornerStep, xor_gfMul ht]
      ac_rfl
    rw [xorFront_cons, List.foldl_cons, hstep, ih (Nat.succ.inj h), List.foldl_cons, List.foldl_cons]
  | case2 w =>
    rw [List.length_eq_zero_iff.mp h.symm]
    rfl
  | case3 c as => contradiction

theorem horner_xorFront (r : Byte) {a w : List Byte} (h : a.length = w.length) :
    horner t r (xorFront a w) = horner t r a ^^^ horner t r w := foldl_hornerStep_xorFront ht r h 0#8 0#8

theorem horner_map (r a : Byte) (p : List Byte) : horner t r (p.map (gfMul t a)) = gfMul t a (horner t r p) := by
  induction p using List.reverseRecOn with
  | nil => exact (gfMul_zero_right t a).symm
  | append_singleton p c ih =>
    rw [List.map_append, List.map_singleton, horner_concat, horner_concat, ih, gfMul_xor ht, gfMul_assoc ht]

/-- The value of a product by x + a is the value of the product's other factor times r + a. -/
theorem horner_polyMul_linear (r a : Byte) (p : List Byte) :
    horner t r (polyMul t p [0x01#8, a]) = gfMul t (horner t r p) (r ^^^ a) := by
  rw [polyMul_linear ht, horner_xorFront ht r (by simp), horner_concat, BitVec.xor_zero, horner_zero_cons,
    horner_map ht, gfMul_comm t a, gfMul_xor ht]

/-- The roots of the generator are EXP[0] to EXP[nsym-1] and no others. -/
theorem horner_generatorPoly_eq_zero_iff (r : Byte) {n : Nat} (h : n ≤ 255) :
    horner t r (generatorPoly t n h) = 0#8 ↔ ∃ i < n, r = generatorTerm i := by
  induction n with
  | zero =>
    simp [generatorPoly, horner_singleton]
  | succ n ih =>
    rw [generatorPoly, horner_polyMul_linear ht, gfMul_eq_zero_iff ht, ih, BitVec.xor_eq_zero_iff, ht.exp_eq]
    simp only [Nat.lt_succ_iff_lt_or_eq, or_and_right, exists_or, exists_eq_left]

theorem generatorPoly_head? {n : Nat} (h : n ≤ 255) : (generatorPoly t n h).head? = some 0x01#8 := by
  induction n with
  | zero => rfl
  | succ n ih =>
    obtain ⟨tail, htail⟩ := List.head?_eq_some_iff.mp (ih (by omega))
    rw [generatorPoly, htail, polyMul_cons_monic ht, List.head?_cons]

end Roots

/-- Settles O34: the last coefficient is the value at 0, and 0 is none of the roots. -/
theorem generatorIsMonicAndVanishesAtItsRoots : Obligations.GeneratorIsMonicAndVanishesAtItsRoots := by
  refine fun t nsym ht => ⟨generatorOf_length t nsym, generatorPoly_head? ht _, fun hlast => ?_, fun i hi => ?_⟩
  · obtain ⟨i, -, hroot⟩ := (horner_generatorPoly_eq_zero_iff ht 0#8 _).mp (horner_zero_of_getLast? t hlast)
    exact generatorTerm_ne_zero i hroot.symm
  · exact (horner_generatorPoly_eq_zero_iff ht _ _).mpr ⟨i, hi, ht.exp_eq _ _⟩

/-! ### Codewords (43_rs_ops.md R132) -/

/-- Xoring past a message leaves it as it is. -/
theorem xorFront_zeros_append (message b w : List Byte) :
    xorFront (zeros message.length ++ b) (message ++ w) = message ++ xorFront b w := by
  induction message with
  | nil => rfl
  | cons c message ih =>
    rw [List.length_cons, zeros_succ, List.cons_append, List.cons_append, xorFront_cons, ih, BitVec.zero_xor,
      List.cons_append]

theorem xorFront_self (a : List Byte) : xorFront a a = zeros a.length := by
  have htwice := xorFront_xorFront_self a (zeros a.length)
  rwa [xorFront_zeros_right rfl] at htwice

/-- What is xored on beyond the leading positions stays on the remainder, whatever the tables hold. -/
theorem polyDivLoop_xorFront (t : Tables) (tail b : List Byte) (n : Nat) (w : List Byte) :
    (polyDivLoop t tail n (xorFront (zeros n ++ b) w)).2 = xorFront b (polyDivLoop t tail n w).2 := by
  induction n generalizing w with
  | zero => rfl
  | succ n ih =>
    cases w with
    | nil => simp only [xorFront_nil_right, polyDivLoop]
    | cons coef w =>
      rw [zeros_succ, List.cons_append, xorFront_cons, BitVec.zero_xor, polyDivLoop_cons, xorFront_left_comm, ih,
        polyDivLoop_cons]

theorem polyDivMod_generatorOf (t : Tables) {message b : List Byte} {nsym : Byte} (h : b.length = nsym.toNat) :
    polyDivMod t (message ++ b) (generatorOf t nsym)
      = polyDivLoop t (generatorOf t nsym).tail message.length (message ++ b) := by
  rw [polyDivMod, generatorOf_length, List.length_append, h, Nat.add_assoc, Nat.add_sub_cancel]

/-- The codeword is the padded message with the parity xored on, so its remainder is the parity xored with itself. -/
theorem remainder_of_codeword (t : Tables) (message : List Byte) (nsym : Byte) :
    (polyDivMod t (message ++ parityOf t message nsym) (generatorOf t nsym)).2 = zeros nsym.toNat := by
  have hlen := parityOf_length t message nsym
  have hcodeword : message ++ parityOf t message nsym
      = xorFront (zeros message.length ++ parityOf t message nsym) (message ++ zeros nsym.toNat) := by
    rw [xorFront_zeros_append, xorFront_zeros_right hlen]
  have hparity : (polyDivLoop t (generatorOf t nsym).tail message.length (message ++ zeros nsym.toNat)).2
      = parityOf t message nsym := by
    rw [parityOf, polyDivMod_generatorOf t (zeros_length _)]
  rw [polyDivMod_generatorOf t hlen, hcodeword, polyDivLoop_xorFront, hparity, xorFront_self, hlen]

/-- Settles O36: the length test, then the lengths of message and parity, then the remainder of the codeword. -/
theorem codewordsAreSystematicMultiplesOfTheGenerator : Obligations.CodewordsAreSystematicMultiplesOfTheGenerator := by
  refine fun t message nsym => ⟨fun hlen => ⟨_, rsEncode_of_le t hlen, ?_, List.take_left, ?_⟩, rsEncode_of_gt t⟩
  · rw [List.length_append, parityOf_length]
  · exact remainder_of_codeword t message nsym

end Sys2Proof.Proofs

/-! SUPPORT. Bit strings place by place: the bits of a byte, the number a group of bits forms, and packing group by
group, with the statements on the bit-string operations (44_bitstring_ops.md). -/

namespace Sys2Proof.Proofs

open Sys2Proof.Machine Sys2Proof.Safety

/-! ### The bits of a byte (00_scope.md R8) -/

theorem bit_ext {a b : Bit} (h : a.getLsbD 0 = b.getLsbD 0) : a = b :=
  BitVec.eq_of_getLsbD_eq fun i hi => by rwa [Nat.lt_one_iff.mp hi]

theorem bits8_eq (v : Byte) : bits8 v = (List.range 8).map fun k => BitVec.ofBool (v.getLsbD (7 - k)) := by
  refine List.map_congr_left fun k _ => ?_
  rw [BitVec.setWidth_one, BitVec.getLsbD_ushiftRight, Nat.add_zero]

theorem bits8_getD (v : Byte) {j : Nat} (hj : j < 8) : ((bits8 v).getD j 0#1).getLsbD 0 = v.getLsbD (7 - j) := by
  simp [bits8_eq, hj]

theorem bits8_inj {v w : Byte} (h : bits8 v = bits8 w) : v = w := by
  refine BitVec.eq_of_getLsbD_eq fun i hi => ?_
  have hplace : 7 - (7 - i) = i := by omega
  rw [← hplace, ← bits8_getD v (by omega), h, bits8_getD w (by omega)]

/-! ### The number a group of bits forms (44_bitstring_ops.md R141) -/

theorem foldl_bits (group : List Bit) (v : Nat) :
    group.foldl (fun v b => 2 * v + b.toNat) v = 2 ^ group.length * v + bitsValue group := by
  induction group generalizing v with
  | nil => simp [bitsValue]
  | cons b group ih =>
    rw [bitsValue, List.foldl_cons, List.foldl_cons, ih, ih (2 * 0 + b.toNat), List.length_cons, Nat.pow_succ]
    ring

/-- The first bit of a group is its most significant. -/
theorem bitsValue_cons (b : Bit) (group : List Bit) :
    bitsValue (b :: group) = 2 ^ group.length * b.toNat + bitsValue group := by
  rw [bitsValue, List.foldl_cons, foldl_bits, Nat.mul_zero, Nat.zero_add]

theorem bitsValue_lt (group : List Bit) : bitsValue group < 2 ^ group.length := by
  induction group with
  | nil => decide
  | cons b group ih =>
    have hb : 2 ^ group.length * b.toNat ≤ 2 ^ group.length * 1 := Nat.mul_le_mul_left _ (Nat.le_of_lt_succ b.isLt)
    rw [bitsValue_cons, List.length_cons, Nat.pow_succ]
    omega

theorem testBit_bitsValue (group : List Bit) {j : Nat} (hj : j < group.length) :
    (bitsValue group).testBit (group.length - 1 - j) = (group.getD j 0#1).getLsbD 0 := by
  induction group generalizing j with
  | nil => contradiction
  | cons b group ih =>
    rw [bitsValue_cons, Nat.testBit_two_pow_mul_add _ (bitsValue_lt group), List.length_cons, Nat.add_sub_cancel]
    cases j with
    | zero => rw [Nat.sub_zero, if_neg (Nat.lt_irrefl _), Nat.sub_self, BitVec.testBit_toNat, List.getD_cons_zero]
    | succ j =>
      have hj' : j < group.length := Nat.lt_of_succ_lt_succ hj
      rw [if_pos (by omega), List.getD_cons_succ, ← ih hj', Nat.sub_sub, Nat.add_comm 1]

/-- The number of a group as the sum of its bits at their places. -/
theorem bitsValue_eq_sum (group : List Bit) : bitsValue group
    = ((List.range group.length).map fun j => (group.getD j 0#1).toNat * 2 ^ (group.length - 1 - j)).sum := by
  induction group with
  | nil => rfl
  | cons b group ih =>
    have hplace : ∀ j, group.length - 1 - j = group.length - (j + 1) := fun j => by omega
    rw [bitsValue_cons, ih, Nat.mul_comm, List.length_cons, List.range_succ_eq_map, List.map_cons, List.sum_cons,
      List.map_map]
    simp only [Function.comp_def, List.getD_cons_zero, List.getD_cons_succ, Nat.succ_eq_add_one, Nat.add_sub_cancel,
      Nat.sub_zero, hplace]

/-! ### A group as a byte (44_bitstring_ops.md R141) -/

section PackGroup

variable {group : List Bit}

/-- RIGHT_ALIGN takes the group as a number. -/
theorem packGroup_rightAlign_toNat (h : group.length ≤ 8) : (packGroup .rightAlign group).toNat = bitsValue group :=
  Nat.mod_eq_of_lt ((bitsValue_lt group).trans_le (Nat.pow_le_pow_right (by decide) h))

theorem packGroup_rightAlign_getLsbD (h : group.length ≤ 8) {j : Nat} (hj : j < group.length) :
    (packGroup .rightAlign group).getLsbD (group.length - 1 - j) = (group.getD j 0#1).getLsbD 0 := by
  rw [← BitVec.testBit_toNat, packGroup_rightAlign_toNat h, testBit_bitsValue group hj]

theorem packGroup_rightAlign_high (h : group.length ≤ 8) {j : Nat} (hj : group.length ≤ j) :
    (packGroup .rightAlign group).getLsbD j = false := by
  rw [← BitVec.testBit_toNat, packGroup_rightAlign_toNat h]
  exact Nat.testBit_lt_two_pow ((bitsValue_lt group).trans_le (Nat.pow_le_pow_right (by decide) hj))

/-- ZERO_PAD_RIGHT moves the group up by the places it lacks, so its bits stand from bit 7 down, and 0 below them. -/
theorem packGroup_zeroPadRight_getLsbD (h : group.length ≤ 8) {j : Nat} (hj : j < 8) :
    (packGroup .zeroPadRight group).getLsbD (7 - j) = (group.getD j 0#1).getLsbD 0 := by
  rw [packGroup, BitVec.getLsbD_ofNat, Nat.testBit_mul_two_pow, decide_eq_true (show 7 - j < 8 by omega), Bool.true_and]
  obtain hin | hout := Nat.lt_or_ge j group.length
  · have hplace : 7 - j - (8 - group.length) = group.length - 1 - j := by omega
    rw [decide_eq_true (show 8 - group.length ≤ 7 - j by omega), Bool.true_and, hplace, testBit_bitsValue group hin]
  · rw [decide_eq_false (show ¬ 8 - group.length ≤ 7 - j by omega), List.getD_eq_default _ _ hout]
    rfl

/-- A whole group needs no completing: both values of PACK_TAIL give the same byte. -/
theorem packGroup_of_whole (tail : PackTail) (h : group.length = 8) :
    packGroup tail group = packGroup .zeroPadRight group := by
  cases tail with
  | zeroPadRight => rfl
  | rightAlign => rw [packGroup, packGroup, h, Nat.sub_self, Nat.pow_zero, Nat.mul_one]

theorem packGroup_getLsbD_of_whole (tail : PackTail) (h : group.length = 8) {j : Nat} (hj : j < 8) :
    (packGroup tail group).getLsbD (7 - j) = (group.getD j 0#1).getLsbD 0 := by
  rw [packGroup_of_whole tail h, packGroup_zeroPadRight_getLsbD h.le hj]

theorem bits8_packGroup (tail : PackTail) (h : group.length = 8) : bits8 (packGroup tail group) = group := by
  refine List.ext_getElem (by rw [bits8_length, h]) fun j hj hj' => bit_ext ?_
  rw [← List.getD_eq_getElem _ 0#1 hj, ← List.getD_eq_getElem _ 0#1 hj', bits8_getD _ (by omega),
    packGroup_getLsbD_of_whole tail h (by omega)]

end PackGroup

theorem packGroup_bits8 (tail : PackTail) (v : Byte) : packGroup tail (bits8 v) = v :=
  bits8_inj (bits8_packGroup tail (bits8_length v))

/-! ### The groups of a bit sequence (44_bitstring_ops.md R141) -/

/-- Group k of `BytePack`: `bits[8k .. min(8k+7, t-1)]` (44_bitstring_ops.md R141). -/
def groupAt (bits : List Bit) (k : Nat) : List Bit := (bits.drop (8 * k)).take 8

theorem bytePack_eq (tail : PackTail) (bits : List Bit) :
    bytePack tail bits = (List.range ((bits.length + 7) / 8)).map fun k => packGroup tail (groupAt bits k) := rfl

theorem groupAt_length (bits : List Bit) (k : Nat) : (groupAt bits k).length = min 8 (bits.length - 8 * k) := by
  rw [groupAt, List.length_take, List.length_drop]

theorem groupAt_length_le (bits : List Bit) (k : Nat) : (groupAt bits k).length ≤ 8 :=
  List.length_take_le _ _

/-- The last group, when it is short. -/
theorem groupAt_last_length (bits : List Bit) : (groupAt bits (bits.length / 8)).length = bits.length % 8 := by
  rw [groupAt_length]
  omega

theorem groupAt_getD (bits : List Bit) (k : Nat) {j : Nat} (hj : j < 8) :
    (groupAt bits k).getD j 0#1 = bits.getD (8 * k + j) 0#1 := by
  simp [groupAt, List.getD_eq_getElem?_getD, hj]

/-- Bit k of the sequence is bit k mod 8 of group k div 8. -/
theorem groupAt_div_getD (bits : List Bit) (k : Nat) :
    (groupAt bits (k / 8)).getD (k % 8) 0#1 = bits.getD k 0#1 := by
  rw [groupAt_getD bits _ (Nat.mod_lt k (by decide)), Nat.div_add_mod]

theorem bytePack_getD (tail : PackTail) (bits : List Bit) {k : Nat} (hk : k < (bits.length + 7) / 8) :
    (bytePack tail bits).getD k 0#8 = packGroup tail (groupAt bits k) := by
  simp [bytePack_eq, hk]

theorem bitsValue_groupAt (bits : List Bit) (k : Nat) : bitsValue (groupAt bits k)
    = ((List.range (groupAt bits k).length).map fun j =>
        (bits.getD (8 * k + j) 0#1).toNat * 2 ^ ((groupAt bits k).length - 1 - j)).sum := by
  rw [bitsValue_eq_sum]
  refine congrArg List.sum (List.map_congr_left fun j hj => ?_)
  rw [groupAt_getD bits k ((List.mem_range.mp hj).trans_le (groupAt_length_le bits k))]

/-- The byte of group k is the number that 44_bitstring_ops.md R141 writes as a sum. -/
theorem packGroup_groupAt (tail : PackTail) (bits : List Bit) (k : Nat) :
    packGroup tail (groupAt bits k) = BitVec.ofNat 8 (groupNumber tail bits k) := by
  cases tail with
  | zeroPadRight => rw [packGroup, bitsValue_groupAt, groupAt_length]; rfl
  | rightAlign => rw [packGroup, bitsValue_groupAt, groupAt_length]; rfl

/-- A whole group in front gives the first byte, and the rest is packed by itself. -/
theorem bytePack_append_whole (tail : PackTail) {group : List Bit} (h : group.length = 8) (rest : List Bit) :
    bytePack tail (group ++ rest) = packGroup tail group :: bytePack tail rest := by
  have hcount : ((group ++ rest).length + 7) / 8 = (rest.length + 7) / 8 + 1 := by
    rw [List.length_append, h]
    omega
  have hfirst : groupAt (group ++ rest) 0 = group := by
    rw [groupAt, Nat.mul_zero, List.drop_zero, List.take_append_of_le_length h.ge, List.take_of_length_le h.le]
  have hnext : ∀ k, groupAt (group ++ rest) (k + 1) = groupAt rest k := fun k => by
    rw [groupAt, Nat.mul_succ, Nat.add_comm, ← h, List.drop_length_add_append, h, groupAt]
  rw [bytePack_eq, hcount, List.range_succ_eq_map, List.map_cons, List.map_map, hfirst, bytePack_eq]
  simp only [Function.comp_def, Nat.succ_eq_add_one, hnext]

/-! ### Packing and unpacking (44_bitstring_ops.md R141 (b), R142 (b)) -/

theorem bitUnpack_cons (v : Byte) (bytes : List Byte) : bitUnpack (v :: bytes) = bits8 v ++ bitUnpack bytes := rfl

theorem bytePack_bitUnpack (tail : PackTail) (bytes : List Byte) : bytePack tail (bitUnpack bytes) = bytes := by
  induction bytes with
  | nil => rfl
  | cons v bytes ih => rw [bitUnpack_cons, bytePack_append_whole tail (bits8_length v), packGroup_bits8, ih]

theorem bitUnpack_inj {a b : List Byte} (h : bitUnpack a = bitUnpack b) : a = b := by
  rw [← bytePack_bitUnpack .zeroPadRight a, h, bytePack_bitUnpack]

/-- The induction takes the whole groups off one by one. -/
theorem bitUnpack_bytePack (tail : PackTail) {n : Nat} {bits : List Bit} (h : bits.length = 8 * n) :
    bitUnpack (bytePack tail bits) = bits := by
  induction n generalizing bits with
  | zero =>
    obtain rfl := List.length_eq_zero_iff.mp h
    rfl
  | succ n ih =>
    have hgroup : (bits.take 8).length = 8 := by
      rw [List.length_take]
      omega
    have hrest : (bits.drop 8).length = 8 * n := by
      rw [List.length_drop]
      omega
    calc bitUnpack (bytePack tail bits)
        = bitUnpack (bytePack tail (bits.take 8 ++ bits.drop 8)) := by rw [List.take_append_drop]
      _ = bits.take 8 ++ bits.drop 8 := by
        rw [bytePack_append_whole tail hgroup, bitUnpack_cons, bits8_packGroup tail hgroup, ih hrest]
      _ = bits := List.take_append_drop 8 bits

/-! ### DataEncode (44_bitstring_ops.md R140) -/

/-- The mode, the count and the characters of a text (44_bitstring_ops.md R140). -/
def bitStringOf (text : List CodePoint) : List Bit :=
  modeIndicator ++ bits8 (BitVec.ofNat 8 text.length) ++ bitUnpack (readBytes text)

theorem bitStringOf_length (text : List CodePoint) : (bitStringOf text).length = 12 + 8 * text.length := by
  rw [bitStringOf, List.length_append, List.length_append, bits8_length, bitUnpack_length, readBytes, List.length_map]
  rfl

theorem dataEncode_of_long {text : List CodePoint} (h : 255 < text.length) : dataEncode text = .error .lengthExceeded :=
  if_pos h

theorem dataEncode_of_unsupported {text : List CodePoint} (hlen : text.length ≤ 255) (h : ∃ c ∈ text, 255 < c.toNat) :
    dataEncode text = .error .unsupportedCharacter := by
  simp [dataEncode, Nat.not_lt.mpr hlen, h]

theorem dataEncode_of_supported {text : List CodePoint} (hlen : text.length ≤ 255) (h : ∀ c ∈ text, c.toNat ≤ 255) :
    dataEncode text = .ok (bitStringOf text) := by
  have hflat : (text.flatMap fun c => bits8 (c.setWidth 8)) = bitUnpack (readBytes text) := by
    rw [bitUnpack, readBytes, List.flatMap_map]
  simpa [dataEncode, bitStringOf, hflat, Nat.not_lt.mpr hlen] using h

theorem dataEncode_ok_inv {text : List CodePoint} {bits : List Bit} (h : dataEncode text = .ok bits) :
    (∀ c ∈ text, c.toNat ≤ 255) ∧ bits = bitStringOf text := by
  obtain hlen | hlen := Nat.lt_or_ge 255 text.length
  · cases (dataEncode_of_long hlen).symm.trans h
  by_cases hchars : ∀ c ∈ text, c.toNat ≤ 255
  · exact ⟨hchars, Except.ok.inj (h.symm.trans (dataEncode_of_supported hlen hchars))⟩
  · simp only [not_forall, Nat.not_le, exists_prop] at hchars
    cases (dataEncode_of_unsupported hlen hchars).symm.trans h

/-- Cutting a supported character to 8 bits loses nothing of it. -/
theorem byteSeq_readBytes_of_supported {text : List CodePoint} (h : ∀ c ∈ text, c.toNat ≤ 255) :
    byteSeq (readBytes text) = text :=
  byteSeq_readBytes (List.all_eq_true.mpr fun c hc => decide_eq_true (Nat.lt_succ_of_le (h c hc)))

/-- The characters stand behind 12 bits, whatever the text. -/
theorem readBytes_eq_of_bitStringOf {text text' : List CodePoint} (h : bitStringOf text = bitStringOf text') :
    readBytes text = readBytes text' :=
  bitUnpack_inj (List.append_inj_right h (by rw [List.length_append, List.length_append, bits8_length, bits8_length]))

/-- The bits of the count and of the characters, written out. -/
theorem bitStringOf_eq (text : List CodePoint) : bitStringOf text
    = [0, 1, 0, 0] ++ ((List.range 8).map fun k => BitVec.ofBool (text.length.testBit (7 - k)))
        ++ text.flatMap fun c => (List.range 8).map fun k => BitVec.ofBool (c.getLsbD (7 - k)) := by
  have hmode : modeIndicator = [0, 1, 0, 0] := rfl
  have hlow : ∀ k, 7 - k < 8 := fun k => by omega
  simp only [bitStringOf, hmode, bitUnpack, readBytes, List.flatMap_map, bits8_eq, BitVec.getLsbD_ofNat,
    BitVec.getLsbD_setWidth, hlow, decide_true, Bool.true_and]

/-! ### The statements -/

/-- Settles O38: the characters stand in the bits, one byte each. -/
theorem bitStringsDetermineTheirText : Obligations.BitStringsDetermineTheirText := by
  intro text text' bits h
  obtain ⟨hchars, rfl⟩ := dataEncode_ok_inv h
  refine ⟨bitStringOf_length text, fun h' => ?_⟩
  obtain ⟨hchars', hbits⟩ := dataEncode_ok_inv h'
  rw [← byteSeq_readBytes_of_supported hchars', ← readBytes_eq_of_bitStringOf hbits,
    byteSeq_readBytes_of_supported hchars]

/-- Settles O39: the result is never longer than the payload, so only the payload's length is held against SEQ_MAX. -/
theorem bpackPacksEachGroup : Obligations.BpackPacksEachGroup := by
  intro bits s hbits
  have hpack : (List.range ((bits.length + 7) / 8)).map (fun k => BitVec.ofNat 8 (groupNumber s.params.packTail bits k))
      = bytePack s.params.packTail bits := by
    simp only [bytePack_eq, packGroup_groupAt]
  rw [hpack]
  refine answers_of_rule_ok nofun rfl ?_ (within_zero s) (List.forall_mem_singleton.mpr hbits) rfl
  rw [List.length_map, bytePack_length]
  exact within_of_le hbits (by omega)

/-- Settles O40: a bit's place in its group, and the group's byte. -/
theorem packedBitsKeepTheirPlaces : Obligations.PackedBitsKeepTheirPlaces := by
  intro bits
  have hmod : ∀ k, k % 8 < 8 := fun k => Nat.mod_lt k (by decide)
  have hpadded : ∀ k, k < 8 * ((bits.length + 7) / 8) →
      ((bytePack .zeroPadRight bits).getD (k / 8) 0#8).getLsbD (7 - k % 8) = (bits.getD k 0#1).getLsbD 0 := fun k hk => by
    rw [bytePack_getD _ bits (by omega), packGroup_zeroPadRight_getLsbD (groupAt_length_le bits _) (hmod k),
      groupAt_div_getD]
  have hlast : bits.length % 8 ≠ 0 → (bytePack .rightAlign bits).getD (bits.length / 8) 0#8
      = packGroup .rightAlign (groupAt bits (bits.length / 8)) := fun h => bytePack_getD _ bits (by omega)
  have hshort := groupAt_last_length bits
  have hle := groupAt_length_le bits (bits.length / 8)
  refine ⟨fun tail k hk => ?_, fun k hk => hpadded k (by omega), fun k hout hk => ?_, fun hne => ?_,
    fun k hfrom hk => ?_, fun j hne hj _ => ?_⟩
  · have hwhole : (groupAt bits (k / 8)).length = 8 := by
      rw [groupAt_length]
      omega
    rw [bytePack_getD tail bits (by omega), packGroup_getLsbD_of_whole tail hwhole (hmod k), groupAt_div_getD]
  · rw [hpadded k hk, List.getD_eq_default _ _ hout]
    rfl
  · have hcount : (bits.length + 7) / 8 = bits.length / 8 + 1 := by omega
    rw [bytePack_eq, hcount, List.range_succ, List.map_append, List.map_singleton, List.getLast?_concat, Option.map_some,
      packGroup_rightAlign_toNat hle, bitsValue_groupAt, hshort]
  · have hdiv : k / 8 = bits.length / 8 := by omega
    have hplace : bits.length - 1 - k = (groupAt bits (bits.length / 8)).length - 1 - k % 8 := by omega
    rw [hdiv, hlast (by omega), hplace, packGroup_rightAlign_getLsbD hle (by omega), ← hdiv, groupAt_div_getD]
  · rw [hlast hne, packGroup_rightAlign_high hle (by omega)]

/-- Settles O41. -/
theorem packingAndUnpackingAreInverse : Obligations.PackingAndUnpackingAreInverse :=
  fun tail => ⟨bytePack_bitUnpack tail, fun _ h =>
    bitUnpack_bytePack tail (Nat.mul_div_cancel' (Nat.dvd_of_mod_eq_zero h)).symm⟩

/-- Settles O37: the two checks in their order, then the bit string. -/
theorem bsencBuildsTheBitString : Obligations.BsencBuildsTheBitString := by
  intro text s htext
  have hwithin : ∀ n ∈ payloadLengths (.bsenc text), WithinSeqMax s n := List.forall_mem_singleton.mpr htext
  refine ⟨fun hlong => ?_, fun hlen hunsupported => ?_, fun hlen hchars hresult => ?_⟩
  · exact answers_of_rule_error (congrArg (Except.map bitsResult) (dataEncode_of_long hlong)) hwithin rfl
  · exact answers_of_rule_error (congrArg (Except.map bitsResult) (dataEncode_of_unsupported hlen hunsupported))
      hwithin rfl
  · rw [← bitStringOf_eq]
    refine answers_of_rule_ok nofun (congrArg (Except.map bitsResult) (dataEncode_of_supported hlen hchars)) ?_
      (within_zero s) hwithin rfl
    rwa [List.length_map, bitStringOf_length]

/-- Settles O42. -/
theorem bunpackUnpacksEachByte : Obligations.BunpackUnpacksEachByte := by
  intro bytes s hbytes hbits
  simp only [← bits8_eq]
  refine answers_of_rule_ok nofun rfl ?_ (within_zero s) (List.forall_mem_singleton.mpr hbytes) rfl
  rwa [List.length_map, ← bitUnpack, bitUnpack_length]

end Sys2Proof.Proofs

/-! SUPPORT. The matrix cell by cell: what each pattern covers, the two grids of the pseudocode as one pattern, the scan
read by its cells, and the number of cells the patterns cover, with the statements on the matrix assembler
(45_matrix_ops.md). -/

namespace Sys2Proof.Proofs

open Sys2Proof.Machine Sys2Proof.Safety

/-! ### The cells a bitmap covers (45_matrix_ops.md R153) -/

/-- The `h` by `h` cells with top-left cell (r0, c0). -/
def block (h r0 c0 : Nat) : Finset (Nat × Nat) := Finset.Ico r0 (r0 + h) ×ˢ Finset.Ico c0 (c0 + h)

theorem mem_block {h r0 c0 r c : Nat} : (r, c) ∈ block h r0 c0 ↔ r0 ≤ r ∧ r < r0 + h ∧ c0 ≤ c ∧ c < c0 + h := by
  rw [block, Finset.mem_product, Finset.mem_Ico, Finset.mem_Ico, and_assoc]

theorem block_card (h r0 c0 : Nat) : (block h r0 c0).card = h * h := by
  rw [block, Finset.card_product, Nat.card_Ico, Nat.card_Ico, Nat.add_sub_cancel_left, Nat.add_sub_cancel_left]

/-- Two blocks whose rows or columns do not overlap are disjoint. -/
theorem block_disjoint {h r0 c0 h' r0' c0' : Nat}
    (hapart : r0 + h ≤ r0' ∨ r0' + h' ≤ r0 ∨ c0 + h ≤ c0' ∨ c0' + h' ≤ c0) :
    Disjoint (block h r0 c0) (block h' r0' c0') := by
  rw [Finset.disjoint_left]
  rintro ⟨r, c⟩ hmem hmem'
  rw [mem_block] at hmem hmem'
  omega

theorem placedAt_eq_none_iff {bitmap : Bitmap} {h r0 c0 r c : Nat} :
    placedAt bitmap h r0 c0 r c = none ↔ (r, c) ∉ block h r0 c0 := by
  rw [placedAt, mem_block, ite_eq_right_iff, imp_iff_not (Option.some_ne_none _)]

theorem placedAt_of_mem {bitmap : Bitmap} {h r0 c0 r c : Nat} (hmem : (r, c) ∈ block h r0 c0) :
    placedAt bitmap h r0 c0 r c = some ((bitmap.getD (r - r0) []).getD (c - c0) 0#1) :=
  if_pos (mem_block.mp hmem)

/-- Cell (i, j) of the bitmap, at its place in the grid. -/
theorem placedAt_add {bitmap : Bitmap} {h i j : Nat} (hi : i < h) (hj : j < h) (r0 c0 : Nat) :
    placedAt bitmap h r0 c0 (r0 + i) (c0 + j) = some ((bitmap.getD i []).getD j 0#1) := by
  rw [placedAt_of_mem (mem_block.mpr (by omega)), Nat.add_sub_cancel_left, Nat.add_sub_cancel_left]

/-! ### The alignment position (45_matrix_ops.md R154) -/

/-- The four inequalities, with the size written out. -/
theorem alignmentFits_iff {p : Params} {version : Nat} : alignmentFits p version = true ↔
    (p.alignR0 + 5 ≤ 4 * version + 17 ∧ p.alignC0 + 5 ≤ 4 * version + 17) ∧ ¬ (p.alignR0 ≤ 6 ∧ p.alignC0 ≤ 6) ∧
      ¬ (p.alignR0 ≤ 6 ∧ 4 * version + 10 ≤ p.alignC0 + 4) ∧ ¬ (4 * version + 10 ≤ p.alignR0 + 4 ∧ p.alignC0 ≤ 6) := by
  rw [alignmentFits, matrixSize_eq]
  simp only [Bool.and_eq_true, Bool.not_eq_true', decide_eq_true_eq, decide_eq_false_iff_not, and_assoc]
  rfl

/-- Settles O46: the four corners of the footprint decide the four inequalities. -/
theorem alignmentIsAdmittedExactlyWhenItFits : Obligations.AlignmentIsAdmittedExactlyWhenItFits := by
  intro p version _
  rw [alignmentFits_iff]
  constructor
  · intro hfits i j hi hj
    omega
  · intro hcells
    have htopLeft := hcells 0 0 (by decide) (by decide)
    have htopRight := hcells 0 4 (by decide) (by decide)
    have hbottomLeft := hcells 4 0 (by decide) (by decide)
    have hbottomRight := hcells 4 4 (by decide) (by decide)
    omega

/-! ### The fixed cells (45_matrix_ops.md R153) -/

/-- The top-left cells of the three finders. -/
def finderCorners (size : Nat) : List (Nat × Nat) := [(0, 0), (0, size - 7), (size - 7, 0)]

/-- The footprints of the three finders. -/
def finderCells (size : Nat) : Finset (Nat × Nat) := block 7 0 0 ∪ block 7 0 (size - 7) ∪ block 7 (size - 7) 0

/-- The footprint of the alignment bitmap, which version 1 does not have. -/
def alignmentCells (p : Params) (version : Nat) : Finset (Nat × Nat) :=
  if 1 < version then block 5 p.alignR0 p.alignC0 else ∅

/-- FIXED(version). -/
def fixedCells (p : Params) (version : Nat) : Finset (Nat × Nat) :=
  finderCells (4 * version + 17) ∪ alignmentCells p version

theorem mem_alignmentCells {p : Params} {version r c : Nat} :
    (r, c) ∈ alignmentCells p version ↔ 1 < version ∧ (r, c) ∈ block 5 p.alignR0 p.alignC0 := by
  rw [alignmentCells]
  split_ifs with hversion <;> simp [hversion]

theorem isFixed_iff {p : Params} {version r c : Nat} :
    IsFixed p version r c = true ↔ (r, c) ∈ fixedCells p version := by
  simp only [IsFixed, Bool.or_eq_true, decide_eq_true_eq, fixedCells, finderCells, Finset.mem_union, mem_alignmentCells,
    mem_block]
  omega

/-- The pattern of the alignment bitmap, which version 1 does not have. -/
def alignmentAt (p : Params) (version r c : Nat) : Option Bit :=
  if 1 < version then placedAt alignment 5 p.alignR0 p.alignC0 r c else none

/-- The pattern of the finder placed last on the cell. -/
def finderAt (size r c : Nat) : Option Bit :=
  ((placedAt finder 7 (size - 7) 0 r c).or (placedAt finder 7 0 (size - 7) r c)).or (placedAt finder 7 0 0 r c)

theorem patternAt_eq (p : Params) (version r c : Nat) :
    patternAt p version r c = (alignmentAt p version r c).or (finderAt (4 * version + 17) r c) := by
  rw [finderAt, Option.or_assoc]
  simp only [patternAt, matrixSize_eq, Option.orElse_eq_orElse, Option.orElse_eq_or]
  rfl

theorem alignmentAt_eq_none_iff {p : Params} {version r c : Nat} :
    alignmentAt p version r c = none ↔ (r, c) ∉ alignmentCells p version := by
  rw [alignmentAt, alignmentCells]
  split_ifs
  · exact placedAt_eq_none_iff
  · simp

theorem finderAt_eq_none_iff {size r c : Nat} : finderAt size r c = none ↔ (r, c) ∉ finderCells size := by
  simp only [finderAt, finderCells, Option.or_eq_none_iff, placedAt_eq_none_iff, Finset.mem_union, not_or]
  tauto

theorem patternAt_eq_none_iff {p : Params} {version r c : Nat} :
    patternAt p version r c = none ↔ IsFixed p version r c = false := by
  rw [patternAt_eq, Option.or_eq_none_iff, alignmentAt_eq_none_iff, finderAt_eq_none_iff, ← Bool.not_eq_true, isFixed_iff,
    fixedCells, Finset.mem_union, not_or, and_comm]

/-- The alignment bitmap is placed last, so it stands whatever lies below it. -/
theorem patternAt_alignment {version i j : Nat} (p : Params) (hversion : 1 < version) (hi : i < 5) (hj : j < 5) :
    patternAt p version (p.alignR0 + i) (p.alignC0 + j) = some (alignBit i j) := by
  rw [patternAt_eq, alignmentAt, if_pos hversion, placedAt_add hi hj, alignment_eq i hi j hj, Option.some_or]

theorem mem_finderCells {size r0 c0 i j : Nat} (hcorner : (r0, c0) ∈ finderCorners size) (hi : i < 7) (hj : j < 7) :
    (r0 + i, c0 + j) ∈ finderCells size := by
  have hmem : (r0 + i, c0 + j) ∈ block 7 r0 c0 := mem_block.mpr (by omega)
  simp only [finderCorners, List.mem_cons, Prod.mk.injEq, List.not_mem_nil, or_false] at hcorner
  simp only [finderCells, Finset.mem_union]
  obtain ⟨rfl, rfl⟩ | ⟨rfl, rfl⟩ | ⟨rfl, rfl⟩ := hcorner
  · exact .inl (.inl hmem)
  · exact .inl (.inr hmem)
  · exact .inr hmem

/-- The three finders lie apart (45_matrix_ops.md R153). -/
theorem finderAt_corner {size r0 c0 i j : Nat} (hsize : 14 ≤ size) (hcorner : (r0, c0) ∈ finderCorners size)
    (hi : i < 7) (hj : j < 7) : finderAt size (r0 + i) (c0 + j) = some (finderBit i j) := by
  have hother : ∀ r0' c0', (r0 + i, c0 + j) ∉ block 7 r0' c0' → placedAt finder 7 r0' c0' (r0 + i) (c0 + j) = none :=
    fun _ _ => placedAt_eq_none_iff.mpr
  have hown := placedAt_add (bitmap := finder) hi hj r0 c0
  rw [finder_eq i hi j hj] at hown
  simp only [finderCorners, List.mem_cons, Prod.mk.injEq, List.not_mem_nil, or_false] at hcorner
  simp only [mem_block] at hother
  rw [finderAt]
  obtain ⟨rfl, rfl⟩ | ⟨rfl, rfl⟩ | ⟨rfl, rfl⟩ := hcorner
  · rw [hother _ 0 (by omega), hother 0 _ (by omega), hown, Option.none_or, Option.none_or]
  · rw [hother _ 0 (by omega), hown, Option.none_or, Option.some_or]
  · rw [hown, Option.some_or, Option.some_or]

theorem finderCells_disjoint_alignmentCells {p : Params} {version : Nat} (hadmitted : Admitted p version) :
    Disjoint (finderCells (4 * version + 17)) (alignmentCells p version) := by
  obtain ⟨-, hfits⟩ := hadmitted
  rw [alignmentCells]
  split_ifs with hversion
  · obtain ⟨⟨hrows, hcols⟩, htopLeft, htopRight, hbottomLeft⟩ := alignmentFits_iff.mp (hfits hversion)
    rw [finderCells, Finset.disjoint_union_left, Finset.disjoint_union_left]
    exact ⟨⟨block_disjoint (by omega), block_disjoint (by omega)⟩, block_disjoint (by omega)⟩
  · exact Finset.disjoint_empty_right _

/-- An admitted alignment position leaves the finders as they are. -/
theorem patternAt_finder {p : Params} {version r0 c0 i j : Nat} (hadmitted : Admitted p version)
    (hcorner : (r0, c0) ∈ finderCorners (4 * version + 17)) (hi : i < 7) (hj : j < 7) :
    patternAt p version (r0 + i) (c0 + j) = some (finderBit i j) := by
  have hout : (r0 + i, c0 + j) ∉ alignmentCells p version :=
    Finset.disjoint_left.mp (finderCells_disjoint_alignmentCells hadmitted) (mem_finderCells hcorner hi hj)
  rw [patternAt_eq, alignmentAt_eq_none_iff.mpr hout, Option.none_or, finderAt_corner (by omega) hcorner hi hj]

/-! ### The number of fixed cells (45_matrix_ops.md R153) -/

theorem finderCells_card {size : Nat} (hsize : 14 ≤ size) : (finderCells size).card = 147 := by
  have hright : Disjoint (block 7 0 0) (block 7 0 (size - 7)) := block_disjoint (by omega)
  have hleft : Disjoint (block 7 0 0 ∪ block 7 0 (size - 7)) (block 7 (size - 7) 0) :=
    Finset.disjoint_union_left.mpr ⟨block_disjoint (by omega), block_disjoint (by omega)⟩
  rw [finderCells, Finset.card_union_of_disjoint hleft, Finset.card_union_of_disjoint hright, block_card, block_card,
    block_card]

theorem fixedCells_card {p : Params} {version : Nat} (hadmitted : Admitted p version) :
    (fixedCells p version).card = if version = 1 then 147 else 172 := by
  rw [fixedCells, Finset.card_union_of_disjoint (finderCells_disjoint_alignmentCells hadmitted),
    finderCells_card (by omega), alignmentCells]
  obtain ⟨hpos, -⟩ := hadmitted
  split_ifs with hversion hone hone
  · omega
  · rw [block_card]
  · rw [Finset.card_empty]
  · omega

theorem mem_rowMajor {size r c : Nat} : (r, c) ∈ rowMajor size ↔ r < size ∧ c < size := by
  simp [rowMajor]

theorem rowMajor_nodup (size : Nat) : (rowMajor size).Nodup :=
  List.nodup_range.product List.nodup_range

theorem lt_of_mem_fixedCells {p : Params} {version : Nat} (hadmitted : Admitted p version) {r c : Nat}
    (hmem : (r, c) ∈ fixedCells p version) : r < 4 * version + 17 ∧ c < 4 * version + 17 := by
  simp only [fixedCells, finderCells, Finset.mem_union, mem_alignmentCells, mem_block] at hmem
  obtain hfinder | ⟨hversion, halignment⟩ := hmem
  · omega
  · obtain ⟨hgrid, -⟩ := alignmentFits_iff.mp (hadmitted.2 hversion)
    omega

/-- The cells that the scan finds fixed are those of FIXED(version), each once. -/
theorem filter_isFixed_length {p : Params} {version : Nat} (hadmitted : Admitted p version) :
    ((rowMajor (4 * version + 17)).filter fun rc => IsFixed p version rc.1 rc.2).length = (fixedCells p version).card := by
  rw [← List.toFinset_card_of_nodup ((rowMajor_nodup _).filter _)]
  congr 1
  ext ⟨r, c⟩
  rw [List.mem_toFinset, List.mem_filter, mem_rowMajor, isFixed_iff, and_iff_right_iff_imp]
  exact lt_of_mem_fixedCells hadmitted

/-- Settles O45: the fixed and the free cells together are the grid. -/
theorem freeCellsAreCounted : Obligations.FreeCellsAreCounted := by
  intro p version hadmitted
  rw [← fixedCells_card hadmitted, ← filter_isFixed_length hadmitted, ← rowMajor_length, freeCells, Nat.add_comm,
    List.length_eq_length_filter_add (l := rowMajor (4 * version + 17)) fun rc => IsFixed p version rc.1 rc.2]

/-! ### The grids of the pseudocode as one pattern (45_matrix_ops.md R156) -/

/-- The bit of a cell marked fixed in the grids. -/
def gridPattern (g : Grid) (r c : Nat) : Option Bit := if g.fixed r c then some (g.cell r c) else none

/-- Placing a bitmap is asking it first. -/
theorem gridPattern_place {bitmap : Bitmap} {bit : Nat → Nat → Bit} {h : Nat}
    (hbit : ∀ i < h, ∀ j < h, (bitmap.getD i []).getD j 0#1 = bit i j) (g : Grid) (r0 c0 r c : Nat) :
    gridPattern (g.place bit h r0 c0) r c = (placedAt bitmap h r0 c0 r c).or (gridPattern g r c) := by
  by_cases hmem : (r, c) ∈ block h r0 c0
  · have hin := mem_block.mp hmem
    rw [placedAt_of_mem hmem, hbit _ (by omega) _ (by omega)]
    simp [gridPattern, Grid.place, hin]
  · have hout := mem_block.not.mp hmem
    rw [placedAt_eq_none_iff.mpr hmem]
    simp [gridPattern, Grid.place, hout]

theorem gridPattern_structuralGrid (p : Params) (version : Nat) :
    gridPattern (structuralGrid p version) = patternAt p version := by
  funext r c
  rw [patternAt_eq, alignmentAt, finderAt, structuralGrid]
  have hblank : gridPattern Grid.blank r c = none := rfl
  split_ifs with hversion
  · simp only [gridPattern_place alignment_eq, gridPattern_place finder_eq, hblank, Option.or_none, Option.or_assoc]
  · simp only [gridPattern_place finder_eq, hblank, Option.or_none, Option.or_assoc, Option.none_or]

/-- Every cell not marked fixed is 0. -/
def BlankElsewhere (g : Grid) : Prop := ∀ r c, g.fixed r c = false → g.cell r c = 0#1

theorem BlankElsewhere.place {g : Grid} (hg : BlankElsewhere g) (bit : Nat → Nat → Bit) (h r0 c0 : Nat) :
    BlankElsewhere (g.place bit h r0 c0) := by
  intro r c hfree
  obtain ⟨hout, hfixed⟩ := Bool.or_eq_false_iff.mp hfree
  exact (if_neg (of_decide_eq_false hout)).trans (hg r c hfixed)

theorem structuralGrid_blankElsewhere (p : Params) (version : Nat) : BlankElsewhere (structuralGrid p version) := by
  have hblank : BlankElsewhere Grid.blank := fun _ _ _ => rfl
  have hfinders := fun size => ((hblank.place finderBit 7 0 0).place finderBit 7 0 (size - 7)).place finderBit 7 (size - 7) 0
  rw [structuralGrid]
  split_ifs
  · exact (hfinders _).place _ _ _ _
  · exact hfinders _

/-! ### The scan (45_matrix_ops.md R155) -/

theorem placeBits_of_fixed {pattern : Nat → Nat → Option Bit} {r c : Nat} {v : Bit} (h : pattern r c = some v)
    (cells : List (Nat × Nat)) (bits : List Bit) :
    placeBits pattern ((r, c) :: cells) bits = v :: placeBits pattern cells bits := by
  simp [placeBits, h]

/-- A free cell takes the next bit, 0 once there is none. -/
theorem placeBits_of_free {pattern : Nat → Nat → Option Bit} {r c : Nat} (h : pattern r c = none)
    (cells : List (Nat × Nat)) (bits : List Bit) :
    placeBits pattern ((r, c) :: cells) bits = bits.headD 0#1 :: placeBits pattern cells bits.tail := by
  cases bits <;> simp [placeBits, h]

/-- Behind a cell the scan goes on with what bits are left. -/
theorem placeBits_cons_tail (pattern : Nat → Nat → Option Bit) (rc : Nat × Nat) (cells : List (Nat × Nat))
    (bits : List Bit) : ∃ rest, (placeBits pattern (rc :: cells) bits).tail = placeBits pattern cells rest := by
  cases h : pattern rc.1 rc.2 with
  | some v => exact ⟨bits, congrArg List.tail (placeBits_of_fixed h cells bits)⟩
  | none => exact ⟨bits.tail, congrArg List.tail (placeBits_of_free h cells bits)⟩

theorem scanCell_of_fixed {g : Grid} {r c : Nat} (h : g.fixed r c = true) (bits out : List Bit) (k : Nat) :
    scanCell g bits (out, k) (r, c) = (out ++ [g.cell r c], k) :=
  if_pos h

theorem scanCell_of_free {g : Grid} (hg : BlankElsewhere g) {r c : Nat} (h : g.fixed r c = false) (bits out : List Bit)
    (k : Nat) :
    scanCell g bits (out, k) (r, c) = (out ++ [bits.getD k 0#1], if k < bits.length then k + 1 else k) := by
  by_cases hk : k < bits.length
  · simp [scanCell, h, hk]
  · simp [scanCell, h, hk, hg r c h]

/-- The scan with an index into the bits is the scan that uses them up. -/
theorem foldl_scanCell {g : Grid} (hg : BlankElsewhere g) (bits : List Bit) (cells : List (Nat × Nat))
    (out : List Bit) (k : Nat) :
    (cells.foldl (scanCell g bits) (out, k)).1 = out ++ placeBits (gridPattern g) cells (bits.drop k) := by
  induction cells generalizing out k with
  | nil => exact (List.append_nil out).symm
  | cons rc cells ih =>
    obtain ⟨r, c⟩ := rc
    rw [List.foldl_cons]
    cases h : g.fixed r c with
    | true =>
      have hpattern : gridPattern g r c = some (g.cell r c) := if_pos h
      rw [scanCell_of_fixed h, ih, placeBits_of_fixed hpattern, List.append_assoc, List.singleton_append]
    | false =>
      have hpattern : gridPattern g r c = none := if_neg (Bool.eq_false_iff.mp h)
      have hhead : (bits.drop k).headD 0#1 = bits.getD k 0#1 := by
        simp [List.headD_eq_head?_getD, List.getD_eq_getElem?_getD]
      have htail : bits.drop (if k < bits.length then k + 1 else k) = (bits.drop k).tail := by
        rw [List.tail_drop]
        split_ifs with hk
        · rfl
        · rw [List.drop_eq_nil_of_le (by omega), List.drop_eq_nil_of_le (by omega)]
      rw [scanCell_of_free hg h, ih, placeBits_of_free hpattern, hhead, htail, List.append_assoc, List.singleton_append]

/-- The machine's matrix is the one the pseudocode leaves. -/
theorem createMatrixLoops_eq (p : Params) (version : Nat) (bits : List Bit) :
    createMatrixLoops p version bits = createMatrix p version bits := by
  rw [createMatrixLoops, foldl_scanCell (structuralGrid_blankElsewhere p version), gridPattern_structuralGrid,
    List.nil_append, List.drop_zero]
  rfl

/-- Settles O43: the two checks in their order, then the matrix, which the loops leave as well. -/
theorem mxasmAssemblesTheMatrixOfThePseudocode : Obligations.MxasmAssemblesTheMatrixOfThePseudocode := by
  intro version bits s hbits
  have hwithin : ∀ n ∈ payloadLengths (.mxasm version bits), WithinSeqMax s n := List.forall_mem_singleton.mpr hbits
  refine ⟨fun hzero => ?_, fun hversion hunfit => ?_, fun hadmitted hresult => ?_⟩
  · subst hzero
    exact answers_of_rule_error rfl hwithin rfl
  · have hpos : version.toNat ≠ 0 := by omega
    exact answers_of_rule_error ((if_neg hpos).trans (if_pos ⟨hversion, hunfit⟩)) hwithin rfl
  · rw [createMatrixLoops_eq]
    refine answers_of_rule_ok nofun (checkVersion_of_admitted hadmitted _) ?_ (within_zero s) hwithin rfl
    rwa [List.length_map, createMatrix_length]

/-! ### The matrix read by its cells (20_memory.md R44) -/

/-- Cell (r, c) of a serialised matrix. -/
def cellOf (size : Nat) (matrix : List Bit) (rc : Nat × Nat) : Bit := matrix.getD (rc.1 * size + rc.2) 0#1

/-- The first `rows` rows of cells stand at the first `rows * size` places. -/
theorem map_range_rowMajor (size rows : Nat) :
    ((List.range rows).flatMap fun r => (List.range size).map fun c => r * size + c) = List.range (rows * size) := by
  induction rows with
  | zero => simp
  | succ rows ih => rw [List.range_succ, List.flatMap_append, ih, List.flatMap_singleton, Nat.succ_mul, List.range_add]

theorem map_cellOf_rowMajor {size : Nat} {matrix : List Bit} (h : matrix.length = size * size) :
    (rowMajor size).map (cellOf size matrix) = matrix := by
  have hplaces : (rowMajor size).map (fun rc => rc.1 * size + rc.2) = List.range matrix.length := by
    rw [h, ← map_range_rowMajor, rowMajor, List.map_flatMap]
    simp only [List.map_map, Function.comp_def]
  calc (rowMajor size).map (cellOf size matrix)
      = ((rowMajor size).map fun rc => rc.1 * size + rc.2).map (fun n => matrix.getD n 0#1) := by
        rw [List.map_map]
        rfl
    _ = matrix := by
      rw [hplaces]
      exact List.ext_getElem (by simp) fun n _ hn => by simp [hn]

section Cells

variable {pattern : Nat → Nat → Option Bit} {cells : List (Nat × Nat)} {bits : List Bit} {f : Nat × Nat → Bit}

/-- The scan gives a fixed cell its pattern bit. -/
theorem eq_of_placeBits_eq_map {r c : Nat} {v : Bit} (hscan : placeBits pattern cells bits = cells.map f)
    (hmem : (r, c) ∈ cells) (hv : pattern r c = some v) : f (r, c) = v := by
  induction cells generalizing bits with
  | nil => contradiction
  | cons rc cells ih =>
    obtain rfl | hlater := List.mem_cons.mp hmem
    · rw [placeBits_of_fixed hv, List.map_cons] at hscan
      exact (List.cons.inj hscan).1.symm
    · obtain ⟨rest, hrest⟩ := placeBits_cons_tail pattern rc cells bits
      exact ih (hrest.symm.trans (congrArg List.tail hscan)) hlater

/-- The scan gives the free cells in their order the bits, cut or extended with 0 to their number. -/
theorem map_free_of_placeBits_eq_map (hscan : placeBits pattern cells bits = cells.map f) :
    (cells.filter fun rc => (pattern rc.1 rc.2).isNone).map f =
      bits.takeD (cells.filter fun rc => (pattern rc.1 rc.2).isNone).length 0#1 := by
  induction cells generalizing bits with
  | nil => rfl
  | cons rc cells ih =>
    obtain ⟨r, c⟩ := rc
    cases hpattern : pattern r c with
    | some v =>
      rw [placeBits_of_fixed hpattern, List.map_cons, List.cons.injEq] at hscan
      rw [List.filter_cons_of_neg (by simp [hpattern]), ih hscan.2]
    | none =>
      rw [placeBits_of_free hpattern, List.map_cons, List.cons.injEq] at hscan
      rw [List.filter_cons_of_pos (by simp [hpattern]), List.map_cons, ih hscan.2, ← hscan.1, List.length_cons,
        List.takeD_succ, List.headD_eq_head?_getD]

end Cells

theorem takeD_eq (n : Nat) (l : List Bit) : l.takeD n 0#1 = l.take n ++ List.replicate (n - l.length) 0#1 := by
  induction n generalizing l with
  | zero => simp
  | succ n ih => cases l <;> simp [ih, List.replicate_succ]

theorem placeBits_rowMajor_eq_map (p : Params) (version : Nat) (bits : List Bit) :
    placeBits (patternAt p version) (rowMajor (4 * version + 17)) bits =
      (rowMajor (4 * version + 17)).map (cellOf (4 * version + 17) (createMatrix p version bits)) := by
  rw [map_cellOf_rowMajor (createMatrix_length p version bits)]
  rfl

/-- A fixed cell of the matrix holds its pattern bit, whatever the bits. -/
theorem createMatrix_getD_of_pattern {p : Params} {version r c : Nat} {v : Bit} (bits : List Bit)
    (hr : r < 4 * version + 17) (hc : c < 4 * version + 17) (hv : patternAt p version r c = some v) :
    (createMatrix p version bits).getD (r * (4 * version + 17) + c) 0#1 = v :=
  eq_of_placeBits_eq_map (placeBits_rowMajor_eq_map p version bits) (mem_rowMajor.mpr ⟨hr, hc⟩) hv

theorem freeCells_eq (p : Params) (version : Nat) : freeCells p version =
    (rowMajor (4 * version + 17)).filter fun rc => (patternAt p version rc.1 rc.2).isNone := by
  have hfree : ∀ r c, (!IsFixed p version r c) = (patternAt p version r c).isNone := fun r c => by
    rw [Bool.eq_iff_iff, Bool.not_eq_true', ← patternAt_eq_none_iff, Option.isNone_iff_eq_none]
  simp only [freeCells, hfree]

/-- Settles O50. -/
theorem alignmentBlockStandsWhateverTheBits : Obligations.AlignmentBlockStandsWhateverTheBits := by
  rintro p version _ bits hadmitted hversion rfl i j hi hj
  obtain ⟨⟨hrows, hcols⟩, -⟩ := alignmentFits_iff.mp (hadmitted.2 hversion)
  exact createMatrix_getD_of_pattern bits (by omega) (by omega) (patternAt_alignment p hversion hi hj)

/-- Settles O44: a matrix cell is read where the scan wrote it, and the patterns say which cells are free. -/
theorem matrixKeepsItsPatternsAndPlacesTheBits : Obligations.MatrixKeepsItsPatternsAndPlacesTheBits := by
  rintro p version _ bits hadmitted rfl
  refine ⟨createMatrix_length p version bits, fun bits' r c hr hc hfixed => ?_, ?_, fun i j hi hj r0 c0 hcorner => ?_,
    by omega, ?_⟩
  · obtain ⟨v, hv⟩ : ∃ v, patternAt p version r c = some v :=
      Option.ne_none_iff_exists'.mp fun hnone =>
        Bool.noConfusion ((patternAt_eq_none_iff.mp hnone).symm.trans hfixed)
    rw [createMatrix_getD_of_pattern bits hr hc hv, createMatrix_getD_of_pattern bits' hr hc hv]
  · rw [← takeD_eq, freeCells_eq]
    exact map_free_of_placeBits_eq_map (placeBits_rowMajor_eq_map p version bits)
  · obtain ⟨hr, hc⟩ := lt_of_mem_fixedCells hadmitted
      (Finset.mem_union_left (alignmentCells p version) (mem_finderCells hcorner hi hj))
    exact createMatrix_getD_of_pattern bits hr hc (patternAt_finder hadmitted hcorner hi hj)
  · rintro rfl
    exact ⟨rfl, fun p' => rfl⟩

end Sys2Proof.Proofs

/-! SUPPORT. The checks a success has passed, and the three stages of the pipeline as functions of the text, with the
statements on QRENC (46_pipeline.md). -/

namespace Sys2Proof.Proofs

open Sys2Proof.Machine Sys2Proof.Safety

/-! ### What a success tells of the checks (30_encoding.md R68 (4) to (7)) -/

/-- Each check of the operation has passed, and its rule has given the results. -/
structure Succeeds (i : Instr) (s : State) (r0 r1 : Seq) : Prop where
  payloads : ∀ n ∈ payloadLengths i, WithinSeqMax s n
  ready : (!ReadsTables i || s.ready) = true
  rule : ruleAnswer i s.tables s.params = .ok (r0, r1)
  within_r0 : WithinSeqMax s r0.length
  within_r1 : WithinSeqMax s r1.length

theorem payloads_fit_of_answerOf_ok {i : Instr} {t : Tables} {ready : Bool} {p : Params} {r : Seq × Seq}
    (h : answerOf i t ready p = .ok r) : ∀ n ∈ payloadLengths i, Params.fits p n = true := by
  intro n hn
  by_contra hfit
  rw [answerOf_eq_stages, foldr_capPayload_of_not_fits hn (eq_false_of_ne_true hfit)] at h
  contradiction

theorem ready_of_needTables_ok {ready : Bool} {ans : Answer} {r : Seq × Seq} (h : needTables ready ans = .ok r) :
    ready = true := by
  cases ready with
  | false => contradiction
  | true => rfl

theorem succeeds_of_answerOf_ok {i : Instr} {s : State} {r0 r1 : Seq}
    (h : answerOf i s.tables s.ready s.params = .ok (r0, r1)) : Succeeds i s r0 r1 := by
  have hpayloads := payloads_fit_of_answerOf_ok h
  obtain ⟨hrule, hr0, hr1⟩ := answerOf_ok_inv h
  have hready : (!ReadsTables i || s.ready) = true :=
    ready_of_needTables_ok ((answerOf_of_fits hpayloads s.tables s.ready).symm.trans h)
  exact ⟨fun n hn => (Params.fits_iff _ _).mp (hpayloads n hn), hready, hrule, (Params.fits_iff _ _).mp hr0,
    (Params.fits_iff _ _).mp hr1⟩

/-- A response with status OK is a success. The type of answers admits a failure with the status OK, so that the rule
has none is asked here. -/
theorem succeeds_of_answers {i : Instr} {s : State} {r0 r1 : Seq} (h : Answers i s ⟨.ok, r0, r1⟩)
    (hi : i ≠ .init) (hstatus : ruleAnswer i s.tables s.params ≠ .error .ok) : Succeeds i s r0 r1 := by
  have hresponse : Answer.response (answerOf i s.tables s.ready s.params) = ⟨.ok, r0, r1⟩ :=
    State.respond_inj (Host.Outcome.next.inj ((answers_of_ne_init s hi).symm.trans h))
  cases hanswer : answerOf i s.tables s.ready s.params with
  | ok r =>
    rw [hanswer] at hresponse
    obtain ⟨-, rfl, rfl⟩ := Response.mk.inj hresponse
    exact succeeds_of_answerOf_ok hanswer
  | error e =>
    rw [hanswer] at hresponse
    obtain rfl : e = .ok := congrArg Response.status hresponse
    obtain ⟨he, -⟩ | ⟨he, -⟩ | hrule := answerOf_error_inv hanswer
    · contradiction
    · contradiction
    · exact absurd hrule hstatus

/-! ### The rules of the stages -/

theorem bitsResult_inj {a b : List Bit} (h : bitsResult a = bitsResult b) : a = b := by
  rw [← readBits_bitSeq a, ← readBits_bitSeq b]
  exact congrArg readBits (congrArg Prod.fst h)

theorem bytesResult_inj {a b : List Byte} (h : bytesResult a = bytesResult b) : a = b := by
  rw [← readBytes_byteSeq a, ← readBytes_byteSeq b]
  exact congrArg readBytes (congrArg Prod.fst h)

theorem map_eq_error_iff {α β : Type} {f : α → β} {x : Except Status α} {e : Status} :
    x.map f = .error e ↔ x = .error e := by
  cases x <;> simp [Except.map]

theorem map_ok_inv {α β : Type} {f : α → β} (hf : ∀ {a b}, f a = f b → a = b) {x : Except Status α} {a : α}
    (h : x.map f = .ok (f a)) : x = .ok a := by
  cases x with
  | error e => contradiction
  | ok b => exact congrArg Except.ok (hf (Except.ok.inj h))

theorem dataEncode_ne_error_ok (text : List CodePoint) : dataEncode text ≠ .error .ok := by
  unfold dataEncode
  split_ifs <;> nofun

theorem rsEncode_ne_error_ok (t : Tables) (message : List Byte) (nsym : Byte) :
    rsEncode t message nsym ≠ .error .ok := by
  unfold rsEncode
  split_ifs <;> nofun

theorem checkVersion_ok_ne_error_ok (p : Params) (version : Byte) (r : Seq × Seq) :
    checkVersion p version (.ok r) ≠ .error .ok := by
  unfold checkVersion
  split_ifs <;> nofun

theorem checkVersion_zero (p : Params) (ans : Answer) : checkVersion p 0#8 ans = .error .badVersion := if_pos rfl

theorem checkVersion_of_unfit {p : Params} {version : Byte} (hversion : 1 < version.toNat)
    (hunfit : alignmentFits p version.toNat = false) (ans : Answer) :
    checkVersion p version ans = .error .badAlignmentConfig :=
  (if_neg (Nat.ne_of_gt (Nat.zero_lt_of_lt hversion))).trans (if_pos ⟨hversion, hunfit⟩)

theorem admitted_of_checkVersion_ok {p : Params} {version : Byte} {ans : Answer} {r : Seq × Seq}
    (h : checkVersion p version ans = .ok r) : Admitted p version.toNat := by
  unfold checkVersion at h
  split_ifs at h with hzero hunfit
  refine ⟨Nat.pos_of_ne_zero hzero, fun hversion => ?_⟩
  by_contra hfit
  exact hunfit ⟨hversion, eq_false_of_ne_true hfit⟩

/-! ### The three stages (46_pipeline.md R170) -/

theorem bytePack_bitStringOf_length (tail : PackTail) (text : List CodePoint) :
    (bytePack tail (bitStringOf text)).length = text.length + 2 := by
  rw [bytePack_length, bitStringOf_length]
  omega

theorem pipelineBits_of_encode_error {text : List CodePoint} {e : Status} (h : dataEncode text = .error e) (t : Tables)
    (p : Params) (version nsym : Byte) : pipelineBits t p version nsym text = .error e := by
  rw [pipelineBits, h]

theorem pipelineBits_of_protect_error {text : List CodePoint} {bits : List Bit} {t : Tables} {p : Params} {nsym : Byte}
    {e : Status} (hencode : dataEncode text = .ok bits) (hprotect : rsEncode t (bytePack p.packTail bits) nsym = .error e)
    (version : Byte) : pipelineBits t p version nsym text = .error e := by
  simp only [pipelineBits, hencode, protectBits, hprotect]
  rfl

theorem pipelineBits_of_ok {text : List CodePoint} {bits : List Bit} {t : Tables} {p : Params} {nsym : Byte}
    {codeword : List Byte} (hencode : dataEncode text = .ok bits)
    (hprotect : rsEncode t (bytePack p.packTail bits) nsym = .ok codeword) (version : Byte) :
    pipelineBits t p version nsym text = .ok (createMatrix p version.toNat
      (bits ++ bitUnpack (codeword.drop (bytePack p.packTail bits).length))) := by
  simp only [pipelineBits, hencode, protectBits, hprotect]
  rfl

/-- The matrix of the loops is the machine's, from the bit string and the parity of its bytes. -/
theorem pipelineMatrix_eq (t : Tables) (p : Params) (version nsym : Byte) (text : List CodePoint) :
    pipelineMatrix t p version.toNat nsym.toNat text = createMatrix p version.toNat
      (bitStringOf text ++ bitUnpack (parityOf t (bytePack p.packTail (bitStringOf text)) nsym)) := by
  have hbits : (modeIndicator ++ bits8 (BitVec.ofNat 8 text.length) ++ text.flatMap fun c => bits8 (c.setWidth 8))
      = bitStringOf text := by
    rw [bitStringOf, bitUnpack, readBytes, List.flatMap_map]
  simp only [pipelineMatrix, hbits, ← packGroup_groupAt]
  rw [← bytePack_eq, parityLoop_eq, createMatrixLoops_eq, bitUnpack]

/-- No stage fails on a supported text whose codeword is within 255 bytes. -/
theorem pipelineBits_of_supported {text : List CodePoint} {nsym : Byte} (hchars : ∀ c ∈ text, c.toNat ≤ 255)
    (hlen : text.length + 2 + nsym.toNat ≤ 255) (t : Tables) (p : Params) (version : Byte) :
    pipelineBits t p version nsym text = .ok (pipelineMatrix t p version.toNat nsym.toNat text) := by
  have hencode := dataEncode_of_supported (by omega) hchars
  have hprotect := rsEncode_of_le t (message := bytePack p.packTail (bitStringOf text)) (nsym := nsym)
    (by rwa [bytePack_bitStringOf_length])
  rw [pipelineBits_of_ok hencode hprotect, List.drop_left, pipelineMatrix_eq]

/-- With the version admitted, QRENC's rule is the pipeline. -/
theorem ruleAnswer_qrenc_of_admitted {p : Params} {version nsym : Byte} {text : List CodePoint}
    {t : Tables} {stages : Except Status (List Bit)} (hadmitted : Admitted p version.toNat)
    (hstages : pipelineBits t p version nsym text = stages) :
    ruleAnswer (.qrenc version nsym text) t p = stages.map bitsResult :=
  (checkVersion_of_admitted hadmitted _).trans (congrArg (Except.map bitsResult) hstages)

/-- Settles O47: the READY check, then the version, then the first stage that fails, else the matrix. -/
theorem qrencRunsTheThreeStages : Obligations.QrencRunsTheThreeStages := by
  intro version nsym text s htext
  have hwithin : ∀ n ∈ payloadLengths (.qrenc version nsym text), WithinSeqMax s n := List.forall_mem_singleton.mpr htext
  refine ⟨fun hready => ?_, fun hready hzero => ?_, fun hready hversion hunfit => ?_, fun hready hadmitted =>
    ⟨fun hlong => ?_, fun hlen hunsupported => ?_, fun hlen hchars hlong => ?_, fun hchars hlen hresult => ?_⟩⟩
  · exact tableReadersWaitForInit.1 _ s rfl hready hwithin
  · subst hzero
    exact answers_of_rule_error (checkVersion_zero _ _) hwithin hready
  · exact answers_of_rule_error (checkVersion_of_unfit hversion hunfit _) hwithin hready
  · exact answers_of_rule_error (ruleAnswer_qrenc_of_admitted hadmitted
      (pipelineBits_of_encode_error (dataEncode_of_long hlong) ..)) hwithin hready
  · exact answers_of_rule_error (ruleAnswer_qrenc_of_admitted hadmitted
      (pipelineBits_of_encode_error (dataEncode_of_unsupported hlen hunsupported) ..)) hwithin hready
  · have hprotect := rsEncode_of_gt s.tables (message := bytePack s.params.packTail (bitStringOf text)) (nsym := nsym)
      (by rwa [bytePack_bitStringOf_length])
    exact answers_of_rule_error (ruleAnswer_qrenc_of_admitted hadmitted
      (pipelineBits_of_protect_error (dataEncode_of_supported hlen hchars) hprotect version)) hwithin hready
  · refine answers_of_rule_ok nofun (ruleAnswer_qrenc_of_admitted hadmitted
      (pipelineBits_of_supported hchars hlen s.tables s.params version)) ?_ (within_zero s) hwithin hready
    rwa [List.length_map, pipelineMatrix_eq, createMatrix_length]

/-! ### The stages by hand (46_pipeline.md R170 (e)) -/

theorem bsenc_ok_inv {text : List CodePoint} {s : State} {bits : List Bit}
    (h : Answers (.bsenc text) s (okBits bits)) :
    WithinSeqMax s text.length ∧ dataEncode text = .ok bits := by
  have hsucceeds := succeeds_of_answers h nofun (mt map_eq_error_iff.mp (dataEncode_ne_error_ok text))
  exact ⟨hsucceeds.payloads _ (.head _), map_ok_inv bitsResult_inj hsucceeds.rule⟩

theorem bpack_ok_inv {bits : List Bit} {s : State} {message : List Byte}
    (h : Answers (.bpack bits) s (okBytes message)) : bytePack s.params.packTail bits = message :=
  bytesResult_inj (Except.ok.inj (succeeds_of_answers h nofun nofun).rule)

theorem rsenc_ok_inv {nsym : Byte} {message codeword : List Byte} {s : State}
    (h : Answers (.rsenc nsym message) s (okBytes codeword)) :
    s.ready = true ∧ rsEncode s.tables message nsym = .ok codeword := by
  have hsucceeds := succeeds_of_answers h nofun (mt map_eq_error_iff.mp (rsEncode_ne_error_ok s.tables message nsym))
  exact ⟨hsucceeds.ready, map_ok_inv bytesResult_inj hsucceeds.rule⟩

theorem bunpack_ok_inv {bytes : List Byte} {s : State} {bits : List Bit}
    (h : Answers (.bunpack bytes) s (okBits bits)) : bitUnpack bytes = bits :=
  bitsResult_inj (Except.ok.inj (succeeds_of_answers h nofun nofun).rule)

theorem mxasm_ok_inv {version : Byte} {bits matrix : List Bit} {s : State}
    (h : Answers (.mxasm version bits) s (okBits matrix)) :
    Admitted s.params version.toNat ∧ createMatrix s.params version.toNat bits = matrix ∧
      WithinSeqMax s matrix.length := by
  have hsucceeds := succeeds_of_answers h nofun (checkVersion_ok_ne_error_ok _ _ _)
  have hadmitted := admitted_of_checkVersion_ok hsucceeds.rule
  have hmatrix := (checkVersion_of_admitted hadmitted _).symm.trans hsucceeds.rule
  exact ⟨hadmitted, bitsResult_inj (Except.ok.inj hmatrix), bitSeq_length matrix ▸ hsucceeds.within_r0⟩

/-- Settles O48: the text within SEQ_MAX is known from BSENC, READY from RSENC, the version and the result within SEQ_MAX
from MXASM. -/
theorem qrencEqualsTheStagesByHand : Obligations.QrencEqualsTheStagesByHand := by
  intro s version nsym text bits parityBits matrix message codeword hbsenc hbpack hrsenc hbunpack hmxasm
  obtain ⟨htext, hencode⟩ := bsenc_ok_inv hbsenc
  obtain rfl := bpack_ok_inv hbpack
  obtain ⟨hready, hprotect⟩ := rsenc_ok_inv hrsenc
  obtain rfl := bunpack_ok_inv hbunpack
  obtain ⟨hadmitted, rfl, hresult⟩ := mxasm_ok_inv hmxasm
  exact answers_of_rule_ok nofun (ruleAnswer_qrenc_of_admitted hadmitted (pipelineBits_of_ok hencode hprotect version))
    (by rwa [List.length_map]) (within_zero s) (List.forall_mem_singleton.mpr htext) hready

end Sys2Proof.Proofs

/-! SUPPORT. What a failing response tells of the step that gave it, and the operations whose own checks refuse nothing,
with the statements on failures (60_exceptions.md). -/

namespace Sys2Proof.Proofs

open Sys2Proof.Machine Sys2Proof.Safety

/-! ### A failure is delivered, and nothing else happens (60_exceptions.md R184) -/

theorem response_eq_failure {ans : Answer} (h : (Answer.response ans).status ≠ .ok) :
    Answer.response ans = failure (Answer.response ans).status := by
  cases ans with
  | error e => rfl
  | ok r => exact absurd rfl h

/-- INIT, the one operation that writes the persistent state, never answers with a failing status. -/
theorem eq_respond_of_exec_failing {i : Instr} {s t : State} {resp : Response} (hexec : exec i s = .next t)
    (hresp : t.responses = s.responses ++ [resp]) (hfail : resp.status ≠ .ok) :
    resp = failure resp.status ∧ t = s.respond resp := by
  obtain rfl := eq_response_of_exec hexec hresp
  have hi : i ≠ .init := by
    rintro rfl
    exact hfail rfl
  exact ⟨response_eq_failure hfail, eq_respond_of_exec hi hexec⟩

/-- The request is illegal, or its decoded operation fails. -/
theorem eq_respond_of_step_failing {s t : State} {r : Request} {rest : List Request} {resp : Response}
    (hq : s.requests = r :: rest) (hstep : step s = .next t) (hresp : t.responses = s.responses ++ [resp])
    (hfail : resp.status ≠ .ok) :
    resp = failure resp.status ∧ t = ({ s with requests := rest } : State).respond resp := by
  cases hd : decode r with
  | error e =>
    obtain rfl := Host.Outcome.next.inj ((step_illegal hq hd).symm.trans hstep)
    obtain rfl : failure .illegalCommand = resp := List.singleton_inj.mp (List.append_cancel_left hresp)
    exact ⟨rfl, rfl⟩
  | ok i => exact eq_respond_of_exec_failing ((step_decoded hq hd).symm.trans hstep) hresp hfail

/-- Settles O12: a response without status OK is a failure's, and answering with it is all the step does. -/
theorem failuresLeaveNoTrace : Obligations.FailuresLeaveNoTrace := by
  intro s t r rest resp hq hstep hresp hfail
  obtain ⟨hfailure, ht⟩ := eq_respond_of_step_failing hq hstep hresp hfail
  exact ⟨congrArg Response.r0 hfailure, congrArg Response.r1 hfailure, ht⟩

/-! ### The operations that cannot fail (60_exceptions.md R182) -/

/-- With a rule that gives results and READY where it is needed, only the SEQ_MAX checks can refuse. -/
theorem status_of_rule_ok {i : Instr} {t : Tables} {ready : Bool} {p : Params} {res : Seq × Seq}
    (hrule : ruleAnswer i t p = .ok res) (hready : ReadsTables i = true → ready = true) :
    (Answer.response (answerOf i t ready p)).status = .ok ∨
      ((Answer.response (answerOf i t ready p)).status = .capacityExceeded ∧ p.seqMax ≠ none) := by
  cases hanswer : answerOf i t ready p with
  | ok r => exact .inl rfl
  | error e =>
    obtain hcapacity | ⟨-, hreads, hnotReady⟩ | herror := answerOf_error_inv hanswer
    · exact .inr hcapacity
    · exact absurd ((hready hreads).symm.trans hnotReady) nofun
    · exact absurd (hrule.symm.trans herror) nofun

/-- Settles O13: each of the seven rules gives results whatever the operands, and the two that read the tables are given
READY. -/
theorem operationsThatCannotFail : Obligations.OperationsThatCannotFail := by
  intro i s t r hexec hr hi
  obtain rfl := eq_response_of_exec hexec hr
  obtain rfl | ⟨x, y, rfl⟩ | ⟨x, y, rfl⟩ | ⟨x, y, rfl, hready⟩ | ⟨nsym, rfl, hready⟩ | ⟨bits, rfl⟩ | ⟨bytes, rfl⟩ := hi
  · exact status_of_rule_ok rfl nofun
  · exact status_of_rule_ok rfl nofun
  · exact status_of_rule_ok rfl nofun
  · exact status_of_rule_ok rfl fun _ => hready
  · exact status_of_rule_ok rfl fun _ => hready
  · exact status_of_rule_ok rfl nofun
  · exact status_of_rule_ok rfl nofun

end Sys2Proof.Proofs

/-! SUPPORT. What reset leaves (70_reset_and_hazards.md R200), field by field, from the laws of State.reset and of the
instance's parameters. -/

namespace Sys2Proof.Proofs

open Sys2Proof.Machine Sys2Proof.Safety

/-- The instance that is reset takes the spec's defaults (00_scope.md R7, log 2). -/
theorem reset_params_defaults :
    State.reset.params.packTail = .zeroPadRight ∧ State.reset.params.seqMax = none := by
  rw [State.reset_params]
  exact ⟨Config.params_packTail, Config.params_seqMax⟩

/-- Settles O7: READY and the two channels have their reset values, and the parameters are the instance's defaults. -/
theorem resetIsNotReadyAndIdle : Obligations.ResetIsNotReadyAndIdle :=
  ⟨State.reset_ready, State.reset_requests, State.reset_responses, reset_params_defaults⟩

end Sys2Proof.Proofs
